-- ==== Sys2Proof/Word.lean ====
section
/-! DEFINITION. The words of HUFFCORE: every width the spec fixes (rules R6, R7), and bit strings (rule R10). -/

namespace Sys2Proof

/-- A symbol, a payload byte or a character: 8 bits (rule R6). -/
abbrev Byte := BitVec 8

/-- Every count of the block: `CNT_W` = 32 bits, unsigned (rules R7, R8). It is also the width of the `data`
field of a command and of a response (rules R80, R81). -/
abbrev Count := BitVec 32

/-- A node handle: `H_W` = 9 bits (rule R7). -/
abbrev Handle := BitVec 9

/-- A command word: `CMD_W` = 48 bits (rule R80). -/
abbrev CmdWord := BitVec 48

/-- A response word: `RSP_W` = 40 bits (rule R81). -/
abbrev RspWord := BitVec 40

/-- A bit string in stream order: the head is the bit nearest the root, the first transmitted (rule R10). -/
abbrev Bits := List Bool

end Sys2Proof
end

