-- ==== Sys2Proof/Syntax.lean ====
section
/-! DEFINITION. The commands of HUFFCORE, one constructor per row of spec/opcode_table.json (rule R84), with the
operands of rule R83 at exactly their widths; the fields of a command word (rule R80); the four operand formats (rule
R82); the pseudo-instructions (rule R91). -/

namespace Sys2Proof

/-- The 21 commands with their operands (rules R83, R84). -/
inductive Instr where
  /-- Rule R110. -/
  | nop
  /-- Rule R111. -/
  | clr
  /-- Rule R112; `idx` is `data[7:0]`. -/
  | csrr (idx : Byte)
  /-- Rule R120; `cnt` is `data[31:0]`. -/
  | fset (sym : Byte) (cnt : Count)
  /-- Rule R121. -/
  | fcnt (sym : Byte)
  /-- Rule R122. -/
  | fget (sym : Byte)
  /-- Rule R130. -/
  | build
  /-- Rule R139; `h` is `data[8:0]`. -/
  | nwgt (h : Handle)
  /-- Rule R140; `h` is `data[8:0]`. -/
  | nlnk (h : Handle)
  /-- Rule R150. -/
  | assign
  /-- Rule R158. -/
  | clen (sym : Byte)
  /-- Rule R159; `pos` is `data[7:0]`, the rule's `i`. -/
  | cbit (sym : Byte) (pos : Byte)
  /-- Rule R160. -/
  | cbegin (sym : Byte)
  /-- Rule R161; `bit` is `data[0]`, the rule's `b`. -/
  | cpush (bit : Bool)
  /-- Rule R162. -/
  | cend
  /-- Rule R181. -/
  | pack (sym : Byte)
  /-- Rule R182; `ch` is the `sym` field. -/
  | pchr (ch : Byte)
  /-- Rule R183. -/
  | pflush
  /-- Rule R201; `n` is `data[31:0]`. -/
  | dbegin (n : Count)
  /-- Rule R202; `v` is the `sym` field. -/
  | dbyte (v : Byte)
  /-- Rule R203. -/
  | dend
  deriving DecidableEq, Repr

/-- The names of the 21 commands, in the order of rule R84. -/
inductive Opcode where
  | nop | clr | csrr
  | fset | fcnt | fget
  | build | nwgt | nlnk
  | assign | clen | cbit | cbegin | cpush | cend
  | pack | pchr | pflush
  | dbegin | dbyte | dend
  deriving DecidableEq, Repr

/-- The four operand formats of rule R82. -/
inductive Format where
  /-- Neither field carries an operand. -/
  | z
  /-- Only `sym` carries an operand. -/
  | s
  /-- Only `data` carries an operand. -/
  | d
  /-- Both fields carry an operand. -/
  | sd
  deriving DecidableEq, Repr

/-- The three fields of a command word (rule R80), whatever they hold: a term that may be ill-formed. -/
structure RawCommand where
  /-- Bits 47:40. -/
  op : Byte
  /-- Bits 39:32. -/
  sym : Byte
  /-- Bits 31:0. -/
  data : Count
  deriving DecidableEq, Repr

/-- Why a word is illegal (rules R85, R86). -/
inductive Illegal where
  /-- No row of rule R84 has this `op`. -/
  | unassignedOpcode
  /-- `sym` is not zero in a format that gives it no operand. -/
  | symNotZero
  /-- A bit of `data` that must be zero is not. -/
  | dataNotZero
  deriving DecidableEq, Repr

/-- The pseudo-instructions of rule R91. -/
inductive Pseudo where
  /-- `MKCODE`. -/
  | mkcode
  /-- `FCNTS "text"`. -/
  | fcnts (text : List Byte)
  /-- `PACKS "text"`. -/
  | packs (text : List Byte)
  /-- `CDEF s, "bits"`. -/
  | cdef (sym : Byte) (bits : Bits)
  /-- `DFEED b0 b1 ... bk`. -/
  | dfeed (bytes : List Byte)
  deriving DecidableEq, Repr

end Sys2Proof
end

