-- ==== Sys2Proof/Decode.lean ====
section
/-! DEFINITION. The opcode map, decoding of any 48-bit word, the encoder, the expansion of pseudo-instructions and the
assembler's printed forms (file 30, rules R80 to R91). -/

namespace Sys2Proof

/-! ## The opcode map (rule R84) -/

/-- Every opcode, in the order of rule R84. -/
def Opcode.all : List Opcode :=
  [.nop, .clr, .csrr, .fset, .fcnt, .fget, .build, .nwgt, .nlnk, .assign, .clen, .cbit, .cbegin, .cpush, .cend,
   .pack, .pchr, .pflush, .dbegin, .dbyte, .dend]

/-- The column `op` of rule R84. -/
def Opcode.byte : Opcode → Byte
  | .nop => 0x00
  | .clr => 0x01
  | .csrr => 0x02
  | .fset => 0x10
  | .fcnt => 0x11
  | .fget => 0x12
  | .build => 0x20
  | .nwgt => 0x21
  | .nlnk => 0x22
  | .assign => 0x30
  | .clen => 0x31
  | .cbit => 0x32
  | .cbegin => 0x33
  | .cpush => 0x34
  | .cend => 0x35
  | .pack => 0x40
  | .pchr => 0x41
  | .pflush => 0x42
  | .dbegin => 0x50
  | .dbyte => 0x51
  | .dend => 0x52

/-- The column `format` of rule R84. -/
def Opcode.format : Opcode → Format
  | .nop | .clr | .build | .assign | .cend | .pflush | .dend => .z
  | .fcnt | .fget | .clen | .cbegin | .pack | .pchr | .dbyte => .s
  | .csrr | .nwgt | .nlnk | .cpush | .dbegin => .d
  | .fset | .cbit => .sd

/-- Whether the format gives the `sym` field an operand (rule R82). -/
def Format.usesSym : Format → Bool
  | .z | .d => false
  | .s | .sd => true

/-- The bits of `data` that must be zero: all of them in the formats `Z` and `S` (rule R82), the last column of rule
R83 in the formats `D` and `SD`. -/
def Opcode.dataMustBeZero : Opcode → Count
  | .nop | .clr | .build | .assign | .cend | .pflush | .dend => 0xFFFFFFFF
  | .fcnt | .fget | .clen | .cbegin | .pack | .pchr | .dbyte => 0xFFFFFFFF
  | .csrr | .cbit => 0xFFFFFF00
  | .nwgt | .nlnk => 0xFFFFFE00
  | .cpush => 0xFFFFFFFE
  | .fset | .dbegin => 0x00000000

/-- The row of rule R84 whose `op` is `b`. -/
def Opcode.ofByte? (b : Byte) : Option Opcode :=
  Opcode.all.find? fun o => o.byte == b

/-! ## Fields of a word (rule R80) -/

/-- Cut a command word into its fields. -/
def RawCommand.ofWord (w : CmdWord) : RawCommand :=
  { op := w.extractLsb' 40 8, sym := w.extractLsb' 32 8, data := w.extractLsb' 0 32 }

/-- Put the fields of a command word together. -/
def RawCommand.word (r : RawCommand) : CmdWord :=
  r.op ++ r.sym ++ r.data

/-- `w[47:32]`, the half of a command word that `ERRCMD` records (rule R236). -/
def headOfWord (w : CmdWord) : BitVec 16 :=
  w.extractLsb' 32 16

/-- `w[31:0]`. -/
def dataOfWord (w : CmdWord) : Count :=
  w.extractLsb' 0 32

/-! ## Decoding (rules R83, R85) -/

/-- The command of an opcode with its operands taken from the fields: each is an unsigned number taken directly from
its field (rule R83). -/
def Opcode.instr (o : Opcode) (sym : Byte) (data : Count) : Instr :=
  match o with
  | .nop => .nop
  | .clr => .clr
  | .csrr => .csrr (data.extractLsb' 0 8)
  | .fset => .fset sym data
  | .fcnt => .fcnt sym
  | .fget => .fget sym
  | .build => .build
  | .nwgt => .nwgt (data.extractLsb' 0 9)
  | .nlnk => .nlnk (data.extractLsb' 0 9)
  | .assign => .assign
  | .clen => .clen sym
  | .cbit => .cbit sym (data.extractLsb' 0 8)
  | .cbegin => .cbegin sym
  | .cpush => .cpush (data.getLsbD 0)
  | .cend => .cend
  | .pack => .pack sym
  | .pchr => .pchr sym
  | .pflush => .pflush
  | .dbegin => .dbegin data
  | .dbyte => .dbyte sym
  | .dend => .dend

/-- The decoder of rule R85 on the fields of a word: a command, or why the word is illegal. -/
def RawCommand.decode (r : RawCommand) : Except Illegal Instr :=
  match Opcode.ofByte? r.op with
  | none => .error .unassignedOpcode
  | some o =>
    if !o.format.usesSym && r.sym != 0 then .error .symNotZero
    else if r.data &&& o.dataMustBeZero != 0 then .error .dataNotZero
    else .ok (o.instr r.sym r.data)

/-- The decoder of rule R85, total on 48-bit words. -/
def decode (w : CmdWord) : Except Illegal Instr :=
  (RawCommand.ofWord w).decode

/-! ## Encoding (rules R80, R83, R84) -/

/-- The opcode of a command. -/
def Instr.opcode : Instr → Opcode
  | .nop => .nop
  | .clr => .clr
  | .csrr _ => .csrr
  | .fset _ _ => .fset
  | .fcnt _ => .fcnt
  | .fget _ => .fget
  | .build => .build
  | .nwgt _ => .nwgt
  | .nlnk _ => .nlnk
  | .assign => .assign
  | .clen _ => .clen
  | .cbit _ _ => .cbit
  | .cbegin _ => .cbegin
  | .cpush _ => .cpush
  | .cend => .cend
  | .pack _ => .pack
  | .pchr _ => .pchr
  | .pflush => .pflush
  | .dbegin _ => .dbegin
  | .dbyte _ => .dbyte
  | .dend => .dend

/-- The `sym` field of a command's word: its operand, or zero where the format gives it none (rule R82). -/
def Instr.symField : Instr → Byte
  | .fset sym _ | .fcnt sym | .fget sym | .clen sym | .cbit sym _ | .cbegin sym | .pack sym => sym
  | .pchr ch => ch
  | .dbyte v => v
  | .nop | .clr | .csrr _ | .build | .nwgt _ | .nlnk _ | .assign | .cpush _ | .cend | .pflush | .dbegin _ | .dend => 0

/-- The `data` field of a command's word: its operand in the low bits, zero elsewhere (rules R82, R83). -/
def Instr.dataField : Instr → Count
  | .csrr idx => idx.setWidth 32
  | .fset _ cnt => cnt
  | .nwgt h | .nlnk h => h.setWidth 32
  | .cbit _ pos => pos.setWidth 32
  | .cpush bit => (BitVec.ofBool bit).setWidth 32
  | .dbegin n => n
  | .nop | .clr | .fcnt _ | .fget _ | .build | .assign | .clen _ | .cbegin _ | .cend | .pack _ | .pchr _ | .pflush
  | .dbyte _ | .dend => 0

/-- The fields of a command's word. -/
def Instr.raw (i : Instr) : RawCommand :=
  { op := i.opcode.byte, sym := i.symField, data := i.dataField }

/-- The word of a command. -/
def encode (i : Instr) : CmdWord :=
  i.raw.word

/-- The bits 47:32 of a command's word, its opcode and its `sym` field: what fault entry writes to `ERRCMD` (rule R236).
DEDUCED (log 5): no two words decode to one command, so the command itself says which word was issued. -/
def Instr.head (i : Instr) : BitVec 16 :=
  i.raw.op ++ i.raw.sym

/-! ## The host's table check -/

/-- The command this decoder reads from a word numbered as spec/opcode_table.json numbers it. The table's words are one
48-bit command word each, so bit `i` of the number is bit `i` of the word; a number that does not fit is no word. -/
def decodeTableWord (nbits w : Nat) : Option Instr :=
  let v := w % 2 ^ nbits
  if v < 2 ^ 48 then (decode (BitVec.ofNat 48 v)).toOption else none

/-! ## Pseudo-instructions (rule R91) -/

/-- The exact expansion of a pseudo-instruction. -/
def Pseudo.expand : Pseudo → List Instr
  | .mkcode => [.build, .assign]
  | .fcnts text => text.map .fcnt
  | .packs text => text.map .pack
  | .cdef sym bits => .cbegin sym :: (bits.map .cpush ++ [.cend])
  | .dfeed bytes => bytes.map .dbyte

/-! ## The assembler's printed forms (rules R89, R90) -/

/-- The mnemonic of an opcode, as rule R84 spells it. -/
def Opcode.mnemonic : Opcode → String
  | .nop => "NOP"
  | .clr => "CLR"
  | .csrr => "CSRR"
  | .fset => "FSET"
  | .fcnt => "FCNT"
  | .fget => "FGET"
  | .build => "BUILD"
  | .nwgt => "NWGT"
  | .nlnk => "NLNK"
  | .assign => "ASSIGN"
  | .clen => "CLEN"
  | .cbit => "CBIT"
  | .cbegin => "CBEGIN"
  | .cpush => "CPUSH"
  | .cend => "CEND"
  | .pack => "PACK"
  | .pchr => "PCHR"
  | .pflush => "PFLUSH"
  | .dbegin => "DBEGIN"
  | .dbyte => "DBYTE"
  | .dend => "DEND"

/-- One hexadecimal digit, upper case as rule R90 prints it. -/
def hexDigit (n : Nat) : Char :=
  if n < 10 then Char.ofNat (0x30 + n) else Char.ofNat (0x37 + n)

/-- The `k` low hexadecimal digits of a number, most significant first. -/
def hexDigits : Nat → Nat → List Char
  | 0, _ => []
  | k + 1, n => hexDigits k (n / 16) ++ [hexDigit (n % 16)]

/-- A command word as rule R90 prints it: 12 hexadecimal digits, `op` first. -/
def printWord (w : CmdWord) : List Char :=
  hexDigits 12 w.toNat

/-- A response word as rule R90 prints it: 10 hexadecimal digits, `rc` first. -/
def printResponse (w : RspWord) : List Char :=
  hexDigits 10 w.toNat

/-- A command in the assembler syntax of rule R89, its `sym` operand as a hexadecimal byte and its `data` operand in
decimal, each written only where the format has it. -/
def Instr.asm (i : Instr) : String :=
  let sym := "0x" ++ String.ofList (hexDigits 2 i.symField.toNat)
  let data := toString i.dataField.toNat
  match i.opcode.format with
  | .z => i.opcode.mnemonic
  | .s => i.opcode.mnemonic ++ " " ++ sym
  | .d => i.opcode.mnemonic ++ " " ++ data
  | .sd => i.opcode.mnemonic ++ " " ++ sym ++ ", " ++ data

end Sys2Proof
end

