-- ==== Sys2Proof/Config.lean ====
section
/-! DEFINITION. The implementation parameters of this hardware (rule R7). The spec leaves no value open (file 93:
"The block has no undefined behaviour"), so there is no free value here. The tie-break (93 U1) is a parameter of the
builder's functions (`Machine/TreeBuilder.lean`) and the left edge's label (93 U3) one of the walk's
(`Machine/CodeGenerator.lean`). -/

namespace Sys2Proof.Config

/-- `CNT_MAX`: the largest count (rule R7). -/
abbrev cntMax : Nat := 2 ^ 32 - 1

/-- `MAXLEN`: the longest code, in bits (rule R7). -/
abbrev maxLen : Nat := 255

/-- `NNODES`: the size of the node arena (rule R7). -/
abbrev nNodes : Nat := 511

/-- `NONE`: the handle value that means "no node" (rule R7). -/
def none : Handle := 0x1FF

/-- The handle of the first internal node: leaves stand below it (rules R24, R133). -/
abbrev firstInternal : Nat := 256

/-- The label of the edge to a `left` child; the edge to the `right` child carries the complement (rules R7, R151). -/
abbrev leftLabel : Bool := false

/-- The character '0' (rule R13). -/
abbrev charZero : Byte := 0x30

/-- The character '1' (rule R13). -/
abbrev charOne : Byte := 0x31

/-- Which count overflowed, as the information value of `E_OVERFLOW` (rule R221): the tree's total weight. -/
abbrev whichTotal : Count := 0x100

/-- As `whichTotal`: the counter `OUTCNT` (rule R221). -/
abbrev whichOutcnt : Count := 0x101

/-- As `whichTotal`: the counter `DINCNT` (rule R221). -/
abbrev whichDincnt : Count := 0x102

end Sys2Proof.Config
end

