-- ==== Sys2Proof/Machine/State.lean ====
section
/-! DEFINITION. The complete state of the block (rule R20), its reset value (rule R49), and the reasons a step can stop.
The block never stops by the spec: every command of every reachable state answers a next state. -/

namespace Sys2Proof.Machine

/-- The result codes of rule R221, by name; the numbers are `ResultCode.byte` (Machine/Operands.lean). -/
inductive ResultCode where
  /-- Completion without fault. -/
  | ok
  /-- `E_FMT_TRUNC`. -/
  | fmtTrunc
  /-- `E_FMT_PAD`. -/
  | fmtPad
  /-- `E_FMT_NOCODE`. -/
  | fmtNoCode
  /-- `E_FMT_TRAIL`. -/
  | fmtTrail
  /-- `E_FMT_EMPTY`. -/
  | fmtEmpty
  /-- `E_FMT_PREFIX`. -/
  | fmtPrefix
  /-- `E_FMT_DUP`. -/
  | fmtDup
  /-- `E_FMT_LONG`. -/
  | fmtLong
  /-- `E_ENC_NOCODE`. -/
  | encNoCode
  /-- `E_ENC_CHAR`. -/
  | encChar
  /-- `E_SEQ`. -/
  | seq
  /-- `E_ILLEGAL`. -/
  | illegal
  /-- `E_RANGE`. -/
  | range
  /-- `E_OVERFLOW`. -/
  | overflow
  /-- `E_ABORTED`: a response only, never in `ERR` (rules R31, R231). -/
  | aborted
  deriving DecidableEq, Repr

/-- An entry of the node arena (rule R24). -/
inductive Node where
  /-- No node. -/
  | invalid
  /-- A leaf: a byte value and its frequency. -/
  | leaf (sym : Byte) (weight : Count)
  /-- An internal node: the sum of its children's weights, and their handles. -/
  | internal (weight : Count) (left right : Handle)
  deriving DecidableEq, Repr

/-- A response (rule R81): the result code and the 32-bit data. -/
structure Response where
  /-- Bits 39:32. -/
  rc : ResultCode
  /-- Bits 31:0. -/
  data : Count
  deriving DecidableEq, Repr

/-- What the host does between two commands (rules R15, R250): issue one command word, or reset the block. -/
inductive HostEvent where
  /-- Issue a command word. -/
  | command (w : CmdWord)
  /-- The hardware reset (rules R250, R251). -/
  | reset
  deriving DecidableEq, Repr

/-- A table file as plain data (log 12): the entries that differ from the file's reset value, by rising index. An
index that is not listed reads as the reset value (`Cells.read`, Machine/Operands.lean). -/
abbrev Cells (n : Nat) (α : Type) := List (BitVec n × α)

/-- The complete state of the block (rule R20), and beside it the model's two fields for the host's side of the
interface (log 1, log 2). -/
structure State where
  /-- `FREQ[0..255]` (rule R21); an unlisted entry is 0. -/
  freq : Cells 8 Count
  /-- `CODE[0..255]` (rule R22); an unlisted entry is `[]`, no entry. -/
  code : Cells 8 Bits
  /-- `NSYM` (rule R23). -/
  nsym : BitVec 9
  /-- `NODE[0..510]` (rule R24); an unlisted entry is `Invalid`. -/
  node : Cells 9 Node
  /-- `ROOT` (rule R25). -/
  root : Handle
  /-- `NNODE` (rule R25). -/
  nnode : BitVec 9
  /-- `FAULT` (rule R28). -/
  fault : Bool
  /-- `PACT` (rule R28). -/
  pact : Bool
  /-- `DACT` (rule R28). -/
  dact : Bool
  /-- `LACT` (rule R28). -/
  lact : Bool
  /-- `ERR` (rule R31); its value 0x00 is the name `ok`. -/
  err : ResultCode
  /-- `ERRCMD` (rule R32). -/
  errcmd : BitVec 16
  /-- `ERRINFO` (rule R33). -/
  errinfo : Count
  /-- `ACC` (rule R46). -/
  acc : Bits
  /-- `NACC` (rule R46). -/
  nacc : BitVec 3
  /-- `OUTCNT` (rule R37). -/
  outcnt : Count
  /-- `DREM` (rule R39). -/
  drem : Count
  /-- `DCNT` (rule R40). -/
  dcnt : Count
  /-- `DINCNT` (rule R41). -/
  dincnt : Count
  /-- `PATH` (rule R47). -/
  path : Bits
  /-- `LDSYM` (rule R48). -/
  ldsym : Byte
  /-- `LDBUF` (rule R48). -/
  ldbuf : Bits
  /-- `OUT`, the bytes appended since the last `CLR` or reset (rule R54). -/
  out : List Byte
  /-- `SYMOUT`, the symbols appended since the last `CLR` or reset (rule R55). -/
  symout : List Byte
  /-- The model's own (log 1): what the host will do, the next event first. -/
  pending : List HostEvent
  /-- The model's own (log 2): every response so far, the oldest first. -/
  responses : List Response
  deriving DecidableEq, Repr

/-- Why the machine may stop. -/
inductive Fault where
  /-- Raised by `ASSIGN` alone, where its walk meets a handle of the internal range that holds no internal node, or
  passes more than 255 internal nodes on one path: rule R26 says that no such arena exists, and the rule of the walk
  gives it no meaning. Safe: no state that satisfies rule R26 raises it (log 6). -/
  | brokenTree
  deriving DecidableEq, Repr

/-- Why the model may give no meaning. -/
inductive Refusal where
  /-- Raised by an arm of `exec` that has no meaning yet. No arm raises it in this model. Safe. -/
  | notModelled (mnemonic : String)
  deriving DecidableEq, Repr

/-- The block right after reset: exactly the table of rule R49. The host has issued nothing and received nothing
(DESIGN CHOICE, log 1 and log 2). -/
def State.reset : State where
  freq := []
  code := []
  nsym := 0
  node := []
  root := Config.none
  nnode := 0
  fault := false
  pact := false
  dact := false
  lact := false
  err := .ok
  errcmd := 0
  errinfo := 0
  acc := []
  nacc := 0
  outcnt := 0
  drem := 0
  dcnt := 0
  dincnt := 0
  path := []
  ldsym := 0
  ldbuf := []
  out := []
  symout := []
  pending := []
  responses := []

end Sys2Proof.Machine
end

