-- ==== Sys2Proof/Machine/Operands.lean ====
section
/-! DEFINITION. What the command rules read and compute with: the table files, symbols and handles, bit strings and
bytes, the numbers of the result codes (rules R10, R11, R51, R52, R57, R221, R222). -/

namespace Sys2Proof.Machine

/-! ## Table files -/

/-- The entry at an index; `d` is what an unlisted index reads as. -/
def Cells.read {n : Nat} {α : Type} (d : α) : Cells n α → BitVec n → α
  | [], _ => d
  | (k, v) :: rest, i => if k = i then v else Cells.read d rest i

/-- Put an entry in front of the first larger index. -/
def Cells.place {n : Nat} {α : Type} : Cells n α → BitVec n → α → Cells n α
  | [], i, v => [(i, v)]
  | (k, x) :: rest, i, v => if i < k then (i, v) :: (k, x) :: rest else (k, x) :: Cells.place rest i v

/-- Write the entry at an index: writing `d` removes it from the list, so that equal files are equal lists. -/
def Cells.write {n : Nat} {α : Type} [DecidableEq α] (d : α) (c : Cells n α) (i : BitVec n) (v : α) : Cells n α :=
  let others := c.filter fun e => e.1 != i
  if v = d then others else Cells.place others i v

/-- The canonical form (log 12): indices strictly rising, no entry equal to what an unlisted index reads as. -/
def Cells.wf {n : Nat} {α : Type} [DecidableEq α] (d : α) : Cells n α → Bool
  | [] => true
  | (k, v) :: rest => v != d && rest.all (fun e => k < e.1) && Cells.wf d rest

/-- `FREQ[b]` of a frequency file (rule R21). -/
def readFreq (f : Cells 8 Count) (b : Byte) : Count :=
  Cells.read 0 f b

/-- `FREQ[b] <- v` (rule R21). -/
def writeFreq (f : Cells 8 Count) (b : Byte) (v : Count) : Cells 8 Count :=
  Cells.write 0 f b v

/-- `CODE[b]` of a code file (rule R22). -/
def readCode (c : Cells 8 Bits) (b : Byte) : Bits :=
  Cells.read [] c b

/-- `CODE[b] <- s` (rule R22). -/
def writeCode (c : Cells 8 Bits) (b : Byte) (s : Bits) : Cells 8 Bits :=
  Cells.write [] c b s

/-- `NODE[h]` of a node arena (rule R24). Handle 511 (`NONE`) indexes nothing (rule R52): it reads as no node. -/
def readNode (a : Cells 9 Node) (h : Handle) : Node :=
  if h = Config.none then .invalid else Cells.read .invalid a h

/-- `NODE[h] <- n` (rule R24). There is no entry 511 to write (rule R52). -/
def writeNode (a : Cells 9 Node) (h : Handle) (x : Node) : Cells 9 Node :=
  if h = Config.none then a else Cells.write .invalid a h x

/-! ## Symbols and handles -/

/-- The symbols 0 to 255, ascending (rule R51). -/
def allSyms : List Byte :=
  (List.range 256).map (BitVec.ofNat 8)

/-- The handles 0 to 510, ascending (rule R52). -/
def allHandles : List Handle :=
  (List.range Config.nNodes).map (BitVec.ofNat 9)

/-- The handle at which the leaf of a symbol stands (rule R24). -/
def leafHandle (b : Byte) : Handle :=
  b.setWidth 9

/-- The symbol of a leaf's handle (rule R24: a leaf stands at the handle equal to its `sym`). -/
def handleSym (h : Handle) : Byte :=
  h.setWidth 8

/-- A handle of the leaf range, 0 to 255 (rules R24, R65). -/
def isLeafHandle (h : Handle) : Bool :=
  h.toNat < Config.firstInternal

/-- `weight(NODE[h])` of a valid node; 0 for no node (rule R139). -/
def Node.weight : Node → Count
  | .invalid => 0
  | .leaf _ w => w
  | .internal w _ _ => w

/-- `zext_32` (rule R11). -/
def zext32 {n : Nat} (v : BitVec n) : Count :=
  v.setWidth 32

/-! ## Bit strings and bytes -/

/-- A bit as a number, 0 or 1. -/
def bitNat (b : Bool) : Nat :=
  b.toNat

/-- `byte_of` (rule R11): the first bit of the string is bit 7 (rule R57). -/
def byteOf (s : Bits) : Byte :=
  let bit (k : Nat) : Nat := bitNat (s.getD k false)
  BitVec.ofNat 8 (bit 0 * 128 + bit 1 * 64 + bit 2 * 32 + bit 3 * 16 + bit 4 * 8 + bit 5 * 4 + bit 6 * 2 + bit 7)

/-- The first `q` groups of 8 bits of a bit string, as bytes (rules R57, R180). -/
def bytesOf : Nat → Bits → List Byte
  | 0, _ => []
  | q + 1, s => byteOf (s.take 8) :: bytesOf q (s.drop 8)

/-- `p` is a proper prefix of `s` (rule R10). -/
def properPrefix (p s : Bits) : Bool :=
  p.isPrefixOf s && decide (p.length < s.length)

/-- Two codes conflict: one is a prefix of the other, equal codes included (rule R162). -/
def codesConflict (a b : Bits) : Bool :=
  a.isPrefixOf b || b.isPrefixOf a

/-- The number of present entries of a code file (rules R22, R23). -/
def presentCount (c : Cells 8 Bits) : Nat :=
  allSyms.countP fun b => !(readCode c b).isEmpty

/-! ## Result codes (rules R221, R222) -/

/-- The number of a result code (rule R221). -/
def ResultCode.byte : ResultCode → Byte
  | .ok => 0x00
  | .fmtTrunc => 0x10
  | .fmtPad => 0x11
  | .fmtNoCode => 0x12
  | .fmtTrail => 0x13
  | .fmtEmpty => 0x14
  | .fmtPrefix => 0x15
  | .fmtDup => 0x16
  | .fmtLong => 0x17
  | .encNoCode => 0x20
  | .encChar => 0x21
  | .seq => 0x30
  | .illegal => 0x31
  | .range => 0x32
  | .overflow => 0x40
  | .aborted => 0x7F

/-- The class of a result code, its high nibble (rule R221): 1 `FormatError`, 2 `EncodingError`, 3 usage, 4 capacity
(rule R222). -/
def ResultCode.classNibble (e : ResultCode) : BitVec 4 :=
  e.byte.extractLsb' 4 4

/-- The response word (rule R81). -/
def Response.word (r : Response) : RspWord :=
  r.rc.byte ++ r.data

end Sys2Proof.Machine
end

