-- ==== Sys2Proof/Machine/Flags.lean ====
section
/-! DEFINITION. The four flags as `STATUS` shows them (rules R28, R30) and the mode conditions behind `E_SEQ` (rule
R226). There are no arithmetic condition codes (rule R28). -/

namespace Sys2Proof.Machine

/-- One flag at its bit of `STATUS`. -/
def flagBit (b : Bool) (pos : Nat) : Count :=
  (BitVec.ofBool b).setWidth 32 <<< pos

/-- `STATUS` (rule R30): bit 0 `FAULT`, bit 1 `PACT`, bit 2 `DACT`, bit 3 `LACT`. -/
def State.status (s : State) : Count :=
  flagBit s.fault 0 ||| flagBit s.pact 1 ||| flagBit s.dact 2 ||| flagBit s.lact 3

/-- `PACT = 1` or `DACT = 1`: a run that the code table steers is open (rules R226, R264). -/
def State.runOpen (s : State) : Bool :=
  s.pact || s.dact

/-- `ASSIGN` is refused with `E_SEQ` (rule R226). -/
def State.assignRefused (s : State) : Bool :=
  s.runOpen

/-- `CBEGIN` is refused with `E_SEQ` (rule R226). -/
def State.cbeginRefused (s : State) : Bool :=
  s.lact

/-- `CPUSH` is refused with `E_SEQ` (rule R226). -/
def State.cpushRefused (s : State) : Bool :=
  !s.lact

/-- `CEND` is refused with `E_SEQ` (rule R226). -/
def State.cendRefused (s : State) : Bool :=
  !s.lact || s.runOpen

/-- `DBEGIN` is refused with `E_SEQ` (rule R226). -/
def State.dbeginRefused (s : State) : Bool :=
  s.dact

/-- `DBYTE` and `DEND` are refused with `E_SEQ` (rule R226). -/
def State.decodeRefused (s : State) : Bool :=
  !s.dact

end Sys2Proof.Machine
end

