-- ==== Sys2Proof/Machine/Ops.lean ====
section
/-! DEFINITION. The shared operations: named updates of the state, completing a command, taking a fault (rule R236), the
common checks (rule R231), and the return to the reset state (rules R49, R111, R238, R250). -/

namespace Sys2Proof.Machine

/-- The outcome of a command. -/
abbrev Result := Host.Outcome State Fault Refusal

/-! ## Reading -/

/-- `FREQ[b]`. -/
def State.freqAt (s : State) (b : Byte) : Count :=
  readFreq s.freq b

/-- `CODE[b]`. -/
def State.codeAt (s : State) (b : Byte) : Bits :=
  readCode s.code b

/-- `NODE[h]`. -/
def State.nodeAt (s : State) (h : Handle) : Node :=
  readNode s.node h

/-! ## Named updates -/

/-- `FREQ[b] <- v`. -/
def State.setFreq (s : State) (b : Byte) (v : Count) : State :=
  { s with freq := writeFreq s.freq b v }

/-- `CODE <- c; NSYM <- n`: they are written only together (rule R23). -/
def State.setTable (s : State) (c : Cells 8 Bits) (n : BitVec 9) : State :=
  { s with code := c, nsym := n }

/-- `NODE <- a; ROOT <- r; NNODE <- n`: they are written only together (rules R24, R25). -/
def State.setTree (s : State) (a : Cells 9 Node) (r : Handle) (n : BitVec 9) : State :=
  { s with node := a, root := r, nnode := n }

/-- `PACT <- b`. -/
def State.setPact (s : State) (b : Bool) : State :=
  { s with pact := b }

/-- `DACT <- b`. -/
def State.setDact (s : State) (b : Bool) : State :=
  { s with dact := b }

/-- `LACT <- b`. -/
def State.setLact (s : State) (b : Bool) : State :=
  { s with lact := b }

/-- `ACC <- bits; NACC <- |bits|` (rule R46). -/
def State.setAcc (s : State) (bits : Bits) : State :=
  { s with acc := bits, nacc := BitVec.ofNat 3 bits.length }

/-- `emit_out` of each byte in order, and `OUTCNT` once per byte (rules R37, R54). -/
def State.emitOut (s : State) (bytes : List Byte) : State :=
  { s with out := s.out ++ bytes, outcnt := s.outcnt + BitVec.ofNat 32 bytes.length }

/-- `DREM <- rem; DCNT <- cnt; DINCNT <- inc; PATH <- p`. -/
def State.setDecoder (s : State) (rem cnt inc : Count) (p : Bits) : State :=
  { s with drem := rem, dcnt := cnt, dincnt := inc, path := p }

/-- `emit_sym` of each symbol in order (rule R55). -/
def State.emitSym (s : State) (syms : List Byte) : State :=
  { s with symout := s.symout ++ syms }

/-- `LDSYM <- b; LDBUF <- bits`. -/
def State.setLoad (s : State) (b : Byte) (bits : Bits) : State :=
  { s with ldsym := b, ldbuf := bits }

/-- The host's next event is taken from the list (log 1). -/
def State.setPending (s : State) (es : List HostEvent) : State :=
  { s with pending := es }

/-- The host receives a response (rule R81). -/
def State.reply (s : State) (rc : ResultCode) (data : Count) : State :=
  { s with responses := s.responses ++ [{ rc := rc, data := data }] }

/-- Every piece of the block's state takes its reset value (rules R49, R111, R250). What the host has received and what
it will do are not the block's state (log 1, log 2). -/
def State.cleared (s : State) : State :=
  { State.reset with pending := s.pending, responses := s.responses }

/-- Fault entry (rule R236) of the command whose word has `head` in bits 47:32; nothing else changes. -/
def State.enterFault (s : State) (head : BitVec 16) (e : ResultCode) (info : Count) : State :=
  { s with fault := true, err := e, errcmd := head, errinfo := info }

/-! ## Completing and faulting -/

/-- `respond(d)`: the command completes with `OK` (rule R11). -/
def respond (d : Count) (s : State) : Result :=
  .next (s.reply .ok d)

/-- Taking a fault: fault entry and the response that reports it (rule R236). -/
def takeFault (head : BitVec 16) (e : ResultCode) (info : Count) (s : State) : Result :=
  .next ((s.enterFault head e info).reply e info)

/-- `raise E(info)` by the command `i` (rule R11). -/
def raise (i : Instr) (e : ResultCode) (info : Count) (s : State) : Result :=
  takeFault i.head e info s

/-- `raise E_SEQ(STATUS)` (rules R221, R226). -/
def raiseSeq (i : Instr) (s : State) : Result :=
  raise i .seq s.status s

/-- The answer to a command while `FAULT = 1`: `E_ABORTED` with data `ERR`, and no change (rule R231). -/
def abort (s : State) : Result :=
  .next (s.reply .aborted (zext32 s.err.byte))

/-- The common check of every command but `CLR` and `CSRR` (rule R231). -/
def unlessFaulted (s : State) (rule : Result) : Result :=
  if s.fault then abort s else rule

/-- The answer to an illegal word (rules R86, R231). -/
def illegalWord (w : CmdWord) (s : State) : Result :=
  unlessFaulted s (takeFault (headOfWord w) .illegal (dataOfWord w) s)

/-- The return from a fault, and the end of a call: everything takes its reset value (rules R111, R238, R250). -/
def returnToReset (s : State) : State :=
  s.cleared

/-! ## Taking the host's next event (log 1) -/

/-- The host's next event and the state without it; none where the host has issued nothing. -/
def takeEvent (s : State) : Option (HostEvent × State) :=
  match s.pending with
  | [] => none
  | e :: es => some (e, s.setPending es)

/-- The host issues a command word next. -/
def issueNext (s : State) (w : CmdWord) : State :=
  s.setPending (.command w :: s.pending)

end Sys2Proof.Machine
end

