-- ==== Sys2Proof/Machine/BitPacker.lean ====
section
/-! DEFINITION. The bit packer commands `PACK`, `PCHR`, `PFLUSH` (file 44). -/

namespace Sys2Proof.Machine

/-- The bytes a command completes are appended to `OUT` unless `OUTCNT` would pass its limit; the response is the new
`OUTCNT` (rules R181 to R183). -/
def emitBytes (i : Instr) (bytes : List Byte) (pending : Bits) (active : Bool) (s : State) : Result :=
  if Config.cntMax < s.outcnt.toNat + bytes.length then raise i .overflow Config.whichOutcnt s
  else
    let t := ((s.emitOut bytes).setAcc pending).setPact active
    respond t.outcnt t

/-- Bits join the pending ones; each group of 8 is a byte of `OUT` and the rest stays pending (rules R180 to R182). -/
def acceptBits (i : Instr) (bits : Bits) (s : State) : Result :=
  let stream := s.acc ++ bits
  let q := stream.length / 8
  emitBytes i (bytesOf q stream) (stream.drop (8 * q)) true s

/-- `PACK sym` (rule R181). -/
def execPack (sym : Byte) (s : State) : Result :=
  unlessFaulted s <|
    if s.codeAt sym = [] then raise (.pack sym) .encNoCode (zext32 sym) s
    else acceptBits (.pack sym) (s.codeAt sym) s

/-- The bit a character stands for (rules R13, R182). -/
def charBit (ch : Byte) : Option Bool :=
  if ch = Config.charZero then some false
  else if ch = Config.charOne then some true
  else none

/-- `PCHR ch` (rule R182). -/
def execPchr (ch : Byte) (s : State) : Result :=
  unlessFaulted s <|
    match charBit ch with
    | none => raise (.pchr ch) .encChar (zext32 ch) s
    | some b => acceptBits (.pchr ch) [b] s

/-- The last partial byte, right-padded with zero bits, if there is one (rules R60, R183). -/
def paddedByte (acc : Bits) (nacc : BitVec 3) : List Byte :=
  if nacc = 0 then [] else [byteOf (acc ++ List.replicate (8 - nacc.toNat) false)]

/-- `PFLUSH` (rule R183). -/
def execPflush (s : State) : Result :=
  unlessFaulted s (emitBytes .pflush (paddedByte s.acc s.nacc) [] false s)

end Sys2Proof.Machine
end

