-- ==== Sys2Proof/Machine/CodeGenerator.lean ====
section
/-! DEFINITION. The code generator and code table commands `ASSIGN`, `CLEN`, `CBIT`, `CBEGIN`, `CPUSH`, `CEND` (file
43). The label of the left edge is a parameter of the walk, as 93 U3 suggests; `ASSIGN` passes this hardware's. -/

namespace Sys2Proof.Machine

/-- The walk of rules R150 and R151 from handle `h`, reached by the labels `p`, over the code file `c`. `fuel` bounds the
internal nodes on one path: an arena of rule R26 has at most 255 (rule R157). None where the walk meets a handle of the
internal range that holds no internal node, or where the bound is passed: rule R26 rules both out (log 6). -/
def walk (leftLabel : Bool) (a : Cells 9 Node) : Nat → Handle → Bits → Cells 8 Bits → Option (Cells 8 Bits)
  | 0, h, p, c => if isLeafHandle h then some (writeCode c (handleSym h) p) else none
  | fuel + 1, h, p, c =>
    if isLeafHandle h then some (writeCode c (handleSym h) p)
    else
      match readNode a h with
      | .internal _ left right =>
        match walk leftLabel a fuel left (p ++ [leftLabel]) c with
        | none => none
        | some c' => walk leftLabel a fuel right (p ++ [!leftLabel]) c'
      | _ => none

/-- The new code table (rules R150 to R153): empty for the empty tree, the one-bit code "0" for a lone symbol, the
walk's codes otherwise. -/
def codesOfTree (leftLabel : Bool) (a : Cells 9 Node) (root : Handle) : Option (Cells 8 Bits) :=
  if root = Config.none then some []
  else if isLeafHandle root then some (writeCode [] (handleSym root) [false])
  else walk leftLabel a Config.maxLen root [] []

/-- `ASSIGN` (rule R150). -/
def execAssign (s : State) : Result :=
  unlessFaulted s <|
    if s.assignRefused then raiseSeq .assign s
    else
      match codesOfTree Config.leftLabel s.node s.root with
      | none => .fault .brokenTree
      | some c => respond (BitVec.ofNat 32 (presentCount c)) (s.setTable c (BitVec.ofNat 9 (presentCount c)))

/-- `CLEN sym` (rule R158). -/
def execClen (sym : Byte) (s : State) : Result :=
  unlessFaulted s (respond (BitVec.ofNat 32 (s.codeAt sym).length) s)

/-- `CBIT sym, i` (rule R159). -/
def execCbit (sym pos : Byte) (s : State) : Result :=
  unlessFaulted s <|
    match (s.codeAt sym)[pos.toNat]? with
    | none => raise (.cbit sym pos) .range (zext32 pos) s
    | some b => respond (zext32 (BitVec.ofBool b)) s

/-- `CBEGIN sym` (rule R160). -/
def execCbegin (sym : Byte) (s : State) : Result :=
  unlessFaulted s <|
    if s.cbeginRefused then raiseSeq (.cbegin sym) s
    else if s.codeAt sym ≠ [] then raise (.cbegin sym) .fmtDup (zext32 sym) s
    else respond 0 ((s.setLoad sym []).setLact true)

/-- `CPUSH b` (rule R161). -/
def execCpush (bit : Bool) (s : State) : Result :=
  unlessFaulted s <|
    if s.cpushRefused then raiseSeq (.cpush bit) s
    else if s.ldbuf.length = Config.maxLen then raise (.cpush bit) .fmtLong (zext32 s.ldsym) s
    else
      let buf := s.ldbuf ++ [bit]
      respond (BitVec.ofNat 32 buf.length) (s.setLoad s.ldsym buf)

/-- The least byte value whose code conflicts with a loaded one (rule R162). -/
def conflicting (c : Cells 8 Bits) (buf : Bits) : Option Byte :=
  allSyms.find? fun t => !(readCode c t).isEmpty && codesConflict (readCode c t) buf

/-- `CEND` (rule R162). -/
def execCend (s : State) : Result :=
  unlessFaulted s <|
    if s.cendRefused then raiseSeq .cend s
    else if s.ldbuf = [] then raise .cend .fmtEmpty (zext32 s.ldsym) s
    else if s.codeAt s.ldsym ≠ [] then raise .cend .fmtDup (zext32 s.ldsym) s
    else
      match conflicting s.code s.ldbuf with
      | some t => raise .cend .fmtPrefix (zext32 t) s
      | none =>
        let m := s.nsym + 1
        respond (zext32 m) ((s.setTable (writeCode s.code s.ldsym s.ldbuf) m).setLact false)

end Sys2Proof.Machine
end

