-- ==== Sys2Proof/Machine/Control.lean ====
section
/-! DEFINITION. The control commands `NOP`, `CLR`, `CSRR` (file 40) and the control and status registers (rules R29 to
R44). -/

namespace Sys2Proof.Machine

/-- `PACC` (rule R38): `NACC` in bits 10:8, the pending bits left-aligned in bits 7:0. -/
def State.pacc (s : State) : Count :=
  zext32 s.nacc <<< 8 ||| zext32 (byteOf s.acc)

/-- `LDINFO` (rule R43): `LDSYM` in bits 15:8, `|LDBUF|` in bits 7:0. -/
def State.ldinfo (s : State) : Count :=
  zext32 s.ldsym <<< 8 ||| zext32 (BitVec.ofNat 8 s.ldbuf.length)

/-- The value of a CSR (rules R30 to R43); a reserved index reads 0 (rule R44). -/
def State.csr (s : State) (idx : Byte) : Count :=
  match idx.toNat with
  | 0 => s.status
  | 1 => zext32 s.err.byte
  | 2 => zext32 s.errcmd
  | 3 => s.errinfo
  | 4 => zext32 s.nsym
  | 5 => zext32 s.root
  | 6 => zext32 s.nnode
  | 7 => s.outcnt
  | 8 => s.pacc
  | 9 => s.drem
  | 10 => s.dcnt
  | 11 => s.dincnt
  | 12 => zext32 (BitVec.ofNat 8 s.path.length)
  | 13 => s.ldinfo
  | _ => 0

/-- `NOP` (rule R110). -/
def execNop (s : State) : Result :=
  unlessFaulted s (respond 0 s)

/-- `CLR` (rule R111): executed while `FAULT = 1` too (rule R231). -/
def execClr (s : State) : Result :=
  respond 0 (returnToReset s)

/-- `CSRR idx` (rule R112): executed while `FAULT = 1` too (rule R231). -/
def execCsrr (idx : Byte) (s : State) : Result :=
  respond (s.csr idx) s

end Sys2Proof.Machine
end

