-- ==== Sys2Proof/Machine/Decoder.lean ====
section
/-! DEFINITION. The decoder and bit unpacker commands `DBEGIN`, `DBYTE`, `DEND` (file 45). -/

namespace Sys2Proof.Machine

/-- `DBEGIN n` (rule R201). -/
def execDbegin (n : Count) (s : State) : Result :=
  unlessFaulted s <|
    if s.dbeginRefused then raiseSeq (.dbegin n) s
    else respond 0 ((s.setDecoder n 0 0 []).setDact true)

/-- The least symbol whose code is `p`: the leaf of the implied tree at `p` (rule R200). -/
def leafAt (c : Cells 8 Bits) (p : Bits) : Option Byte :=
  allSyms.find? fun t => decide (readCode c t = p)

/-- `p` is an inner node of the implied tree: a proper prefix of an entry (rule R200). -/
def innerAt (c : Cells 8 Bits) (p : Bits) : Bool :=
  allSyms.any fun t => properPrefix p (readCode c t)

/-- The working values of `DBYTE` (rule R202). -/
structure Unpack where
  /-- Symbols still to emit. -/
  rem : Count
  /-- Symbols emitted. -/
  cnt : Count
  /-- The position in the implied tree. -/
  path : Bits
  /-- The symbols this byte has completed so far. -/
  out : List Byte
  deriving DecidableEq, Repr

/-- One bit of a payload byte (rules R200, R202): a pad bit once every symbol has been emitted, a step of the walk
before. -/
def bitStep (c : Cells 8 Bits) (u : Unpack) (b : Bool) : Except ResultCode Unpack :=
  if u.rem = 0 then
    if b then .error .fmtPad else .ok u
  else
    let p := u.path ++ [b]
    match leafAt c p with
    | some t => .ok { rem := u.rem - 1, cnt := u.cnt + 1, path := [], out := u.out ++ [t] }
    | none => if innerAt c p then .ok { u with path := p } else .error .fmtNoCode

/-- The bits of a payload byte from bit `k - 1` down to bit 0, the most significant first (rules R57, R202). The first
bit that fails is reported with its number. -/
def unpackBits (c : Cells 8 Bits) (v : Byte) : Nat → Unpack → Except (ResultCode × Nat) Unpack
  | 0, u => .ok u
  | k + 1, u =>
    match bitStep c u (v.getLsbD k) with
    | .error e => .error (e, k)
    | .ok u' => unpackBits c v k u'

/-- `DBYTE v` (rule R202): the working values are committed only if the whole byte passes. -/
def execDbyte (v : Byte) (s : State) : Result :=
  unlessFaulted s <|
    if s.decodeRefused then raiseSeq (.dbyte v) s
    else if s.drem = 0 then raise (.dbyte v) .fmtTrail (zext32 v) s
    else if s.dincnt.toNat = Config.cntMax then raise (.dbyte v) .overflow Config.whichDincnt s
    else
      match unpackBits s.code v 8 { rem := s.drem, cnt := s.dcnt, path := s.path, out := [] } with
      | .error (e, k) => raise (.dbyte v) e (BitVec.ofNat 32 k) s
      | .ok u =>
        respond (BitVec.ofNat 32 u.out.length) ((s.setDecoder u.rem u.cnt (s.dincnt + 1) u.path).emitSym u.out)

/-- `DEND` (rule R203). -/
def execDend (s : State) : Result :=
  unlessFaulted s <|
    if s.decodeRefused then raiseSeq .dend s
    else if s.drem ≠ 0 then raise .dend .fmtTrunc s.drem s
    else respond s.dcnt (s.setDact false)

end Sys2Proof.Machine
end

