-- ==== Sys2Proof/Machine/Frequency.lean ====
section
/-! DEFINITION. The frequency table commands `FSET`, `FCNT`, `FGET` (file 41). -/

namespace Sys2Proof.Machine

/-- `FSET sym, cnt` (rule R120). -/
def execFset (sym : Byte) (cnt : Count) (s : State) : Result :=
  unlessFaulted s (respond 0 (s.setFreq sym cnt))

/-- `FCNT sym` (rule R121). -/
def execFcnt (sym : Byte) (s : State) : Result :=
  unlessFaulted s <|
    if (s.freqAt sym).toNat = Config.cntMax then raise (.fcnt sym) .overflow (zext32 sym) s
    else
      let v := s.freqAt sym + 1
      respond v (s.setFreq sym v)

/-- `FGET sym` (rule R122). -/
def execFget (sym : Byte) (s : State) : Result :=
  unlessFaulted s (respond (s.freqAt sym) s)

end Sys2Proof.Machine
end

