-- ==== Sys2Proof/Machine/TreeBuilder.lean ====
section
/-! DEFINITION. The tree builder commands `BUILD`, `NWGT`, `NLNK` (file 42). The order on candidates is a parameter of
the builder's functions, as rule R131 and 93 U1 suggest; `BUILD` passes this hardware's order. -/

namespace Sys2Proof.Machine

/-- A candidate of the merge: a valid node that has no parent yet, with its weight. -/
structure Cand where
  /-- The node's handle. -/
  handle : Handle
  /-- Its weight. -/
  weight : Count
  deriving DecidableEq, Repr

/-- This hardware's order on candidates (rule R131): smaller weight first, among equal weights the smaller handle. -/
def candBefore (x y : Cand) : Bool :=
  decide (x.weight < y.weight) || (x.weight == y.weight && decide (x.handle < y.handle))

/-- The exact sum of all frequencies, not modulo 2^32 (rule R130). -/
def totalWeight (f : Cells 8 Count) : Nat :=
  (allSyms.map fun b => (readFreq f b).toNat).sum

/-- The present keys, ascending (rules R21, R132). -/
def presentKeys (f : Cells 8 Count) : List Byte :=
  allSyms.filter fun b => readFreq f b != 0

/-- The leaves, each at its own handle (rule R132). -/
def leafArena (f : Cells 8 Count) : Cells 9 Node :=
  (presentKeys f).foldl (fun a b => writeNode a (leafHandle b) (.leaf b (readFreq f b))) []

/-- The first candidate set: every leaf (rule R130). -/
def leafCands (f : Cells 8 Count) : List Cand :=
  (presentKeys f).map fun b => { handle := leafHandle b, weight := readFreq f b }

/-- The builder between two merges: the new arena, the candidate set and the number of merges done (rule R130's `N`, `Q`
and `k`). How the set is stored cannot be observed (rule R137). -/
structure Builder where
  /-- `N`. -/
  arena : Cells 9 Node
  /-- `Q`. -/
  cands : List Cand
  /-- `k`. -/
  merges : Nat
  deriving DecidableEq, Repr

/-- The least candidate under an order, and the others. -/
def takeLeast (before : Cand → Cand → Bool) : List Cand → Option (Cand × List Cand)
  | [] => none
  | c :: cs =>
    match takeLeast before cs with
    | none => some (c, [])
    | some (m, rest) => if before c m then some (c, cs) else some (m, c :: rest)

/-- The two least candidates in order, and the others; none where there are fewer than two. -/
def takeTwo (before : Cand → Cand → Bool) (q : List Cand) : Option (Cand × Cand × List Cand) :=
  match takeLeast before q with
  | none => none
  | some (a, q1) =>
    match takeLeast before q1 with
    | none => none
    | some (c, q2) => some (a, c, q2)

/-- One merge (rule R133): the first extracted candidate becomes the `left` child and the second the `right` child of
the new node, which stands at handle `256 + k` and enters the candidate set. -/
def mergeNode (b : Builder) (first second : Cand) (rest : List Cand) : Builder :=
  let h := BitVec.ofNat 9 (Config.firstInternal + b.merges)
  let w := first.weight + second.weight
  { arena := writeNode b.arena h (.internal w first.handle second.handle)
    cands := rest ++ [{ handle := h, weight := w }]
    merges := b.merges + 1 }

/-- Merge while there are two candidates or more, at most `fuel` times (rule R130's loop). -/
def mergeLoop (before : Cand → Cand → Bool) : Nat → Builder → Builder
  | 0, b => b
  | fuel + 1, b =>
    match takeTwo before b.cands with
    | none => b
    | some (first, second, rest) => mergeLoop before fuel (mergeNode b first second rest)

/-- The builder before its first merge (rule R130). -/
def initialBuilder (f : Cells 8 Count) : Builder :=
  { arena := leafArena f, cands := leafCands f, merges := 0 }

/-- The builder when the loop of rule R130 has ended: with `n` candidates it merges `n - 1` times (rule R134). -/
def finalBuilder (before : Cand → Cand → Bool) (f : Cells 8 Count) : Builder :=
  mergeLoop before (leafCands f).length (initialBuilder f)

/-- `ROOT` after the loop: the one candidate left, or `NONE` for the empty table (rules R130, R135). -/
def Builder.root (b : Builder) : Handle :=
  match b.cands with
  | [] => Config.none
  | c :: _ => c.handle

/-- `BUILD` (rule R130). -/
def execBuild (s : State) : Result :=
  unlessFaulted s <|
    if 2 ^ 32 ≤ totalWeight s.freq then raise .build .overflow Config.whichTotal s
    else
      let b := finalBuilder candBefore s.freq
      let count := (presentKeys s.freq).length + b.merges
      respond (BitVec.ofNat 32 count) (s.setTree b.arena b.root (BitVec.ofNat 9 count))

/-- `NWGT h` (rule R139). -/
def execNwgt (h : Handle) (s : State) : Result :=
  unlessFaulted s <|
    if h = Config.none then raise (.nwgt h) .range (zext32 h) s
    else respond (s.nodeAt h).weight s

/-- The link word of a node (rule R140). -/
def Node.linkWord : Node → Count
  | .invalid => 0
  | .leaf sym _ => 0x80000000 + zext32 sym
  | .internal _ left right => 0xC0000000 + (zext32 right <<< 16) + zext32 left

/-- `NLNK h` (rule R140). -/
def execNlnk (h : Handle) (s : State) : Result :=
  unlessFaulted s <|
    if h = Config.none then raise (.nlnk h) .range (zext32 h) s
    else respond (s.nodeAt h).linkWord s

end Sys2Proof.Machine
end

