-- ==== Sys2Proof/Machine/Dispatch.lean ====
section
/-! DEFINITION. One arm per command: each calls the command's meaning, the common checks of rule R231 included. -/

namespace Sys2Proof.Machine

def exec (i : Instr) (s : State) : Host.Outcome State Fault Refusal :=
  match i with
  | .nop => Sys2Proof.Machine.execNop s
  | .clr => Sys2Proof.Machine.execClr s
  | .csrr idx => Sys2Proof.Machine.execCsrr idx s
  | .fset sym cnt => Sys2Proof.Machine.execFset sym cnt s
  | .fcnt sym => Sys2Proof.Machine.execFcnt sym s
  | .fget sym => Sys2Proof.Machine.execFget sym s
  | .build => Sys2Proof.Machine.execBuild s
  | .nwgt h => Sys2Proof.Machine.execNwgt h s
  | .nlnk h => Sys2Proof.Machine.execNlnk h s
  | .assign => Sys2Proof.Machine.execAssign s
  | .clen sym => Sys2Proof.Machine.execClen sym s
  | .cbit sym pos => Sys2Proof.Machine.execCbit sym pos s
  | .cbegin sym => Sys2Proof.Machine.execCbegin sym s
  | .cpush bit => Sys2Proof.Machine.execCpush bit s
  | .cend => Sys2Proof.Machine.execCend s
  | .pack sym => Sys2Proof.Machine.execPack sym s
  | .pchr ch => Sys2Proof.Machine.execPchr ch s
  | .pflush => Sys2Proof.Machine.execPflush s
  | .dbegin n => Sys2Proof.Machine.execDbegin n s
  | .dbyte v => Sys2Proof.Machine.execDbyte v s
  | .dend => Sys2Proof.Machine.execDend s

end Sys2Proof.Machine
end

