-- ==== Sys2Proof/Machine/Step.lean ====
section
/-! DEFINITION. One step of the block: it takes the host's next event (rules R14, R15, R27, R250; log 1). -/

namespace Sys2Proof.Machine

/-- One command word: decoded (rule R85), then the common checks and the command's rule (rule R231). -/
def issue (w : CmdWord) (s : State) : Host.Outcome State Fault Refusal :=
  match decode w with
  | .ok i => exec i s
  | .error _ => illegalWord w s

/-- One step. With nothing issued the block holds its state (rules R242, R253; log 4); a reset returns it to the reset
state with no response (rules R250, R251; log 3); a command word is executed to completion (rule R14). -/
def step (s : State) : Host.Outcome State Fault Refusal :=
  match takeEvent s with
  | none => .next s
  | some (.reset, s') => .next (returnToReset s')
  | some (.command w, s') => issue w s'

/-- The host issues the word next, so that the very next step runs it (log 1); the table's words are 48-bit command
words, each bit at its own number. -/
def State.withFetchWord (s : State) (nbits w : Nat) : State :=
  issueNext s (BitVec.ofNat 48 (w % 2 ^ nbits))

end Sys2Proof.Machine
end

