-- ==== Sys2Proof/WellFormed.lean ====
section
/-! DEFINITION. When a command as written is well formed (rule R82). The operands of `Instr` have exactly the widths of
rule R83, so every `Instr` is well formed (`Sys2Proof.Laws.WellFormedness`); the term that can be ill formed is the
triple of fields an assembler or a host puts into a word. -/

namespace Sys2Proof

/-- A triple of fields is a legal command word (rules R82, R85): its opcode is assigned, `sym` is zero where the format
gives it no operand, and every must-be-zero bit of `data` is zero. -/
def RawCommand.wellFormed (r : RawCommand) : Bool :=
  match Opcode.ofByte? r.op with
  | none => false
  | some o => (o.format.usesSym || r.sym == 0) && r.data &&& o.dataMustBeZero == 0

/-- The fields of the command's word are well formed. -/
def Instr.wellFormed (i : Instr) : Bool :=
  i.raw.wellFormed

end Sys2Proof
end

