-- ==== Sys2Proof/Safety.lean ====
section
/-! DEFINITION. The terms in which claims about the block are stated: what a command leaves behind, the invariants the
spec gives the state, sequences of commands, and the declarative readings of the tree, the codes and the two bit
streams. No definition here takes part in a step. -/

namespace Sys2Proof.Machine

/-! ## What a command leaves behind -/

/-- `s` after the host has received the response `OK` with data `d`; nothing else differs. -/
def State.afterOk (s : State) (d : Count) : State :=
  { s with responses := s.responses ++ [{ rc := .ok, data := d }] }

/-- `s` after the response `E_ABORTED`, whose data is `ERR`; nothing else differs (rule R231). -/
def State.afterAbort (s : State) : State :=
  { s with responses := s.responses ++ [{ rc := .aborted, data := s.err.byte.setWidth 32 }] }

/-- `s` after fault entry with result code `e` and information value `info` by a word whose bits 47:32 are `head`;
nothing else differs (rule R236). -/
def State.afterFault (s : State) (head : BitVec 16) (e : ResultCode) (info : Count) : State :=
  { s with
    fault := true
    err := e
    errcmd := head
    errinfo := info
    responses := s.responses ++ [{ rc := e, data := info }] }

/-- The reset state of the block beside what the host of `s` will do and has received (rule R49, log 1, log 2). -/
def State.blockReset (s : State) : State :=
  { State.reset with pending := s.pending, responses := s.responses }

/-! ## Sequences of commands (rules R91, R123, R207, R256, R257) -/

/-- The commands one after the other; a command that does not answer a next state ends the sequence. -/
def execAll : List Instr → State → Result
  | [], s => .next s
  | i :: rest, s =>
    match exec i s with
    | .next s' => execAll rest s'
    | .fault r => .fault r
    | .refused r => .refused r

/-- Steps 2, 3, 5 and 6 of the compress sequence (rule R256), the commands of rule R207's first half. -/
def compressCommands (x : List Byte) : List Instr :=
  (Pseudo.fcnts x).expand ++ Pseudo.mkcode.expand ++ (Pseudo.packs x).expand ++ [.pflush]

/-- Step 3 of the decompress sequence (rule R257): the entries of a code table in ascending order. -/
def loadCommands (c : Cells 8 Bits) : List Instr :=
  allSyms.flatMap fun b => if readCode c b = [] then [] else (Pseudo.cdef b (readCode c b)).expand

/-- Steps 4 to 6 of the decompress sequence (rule R257). -/
def decodeCommands (n : Count) (payload : List Byte) : List Instr :=
  .dbegin n :: ((Pseudo.dfeed payload).expand ++ [.dend])

/-- Step 4 of the compress sequence (rule R256): the metadata of a code table as the host reads it out. -/
def metadataCommands (c : Cells 8 Bits) : List Instr :=
  allSyms.flatMap fun b => .clen b :: (List.range (readCode c b).length).map fun k => .cbit b (BitVec.ofNat 8 k)

/-! ## What the host reports (rules R45, R222) -/

/-- The source's error classes that the host reports (rule R222). `IOError` is the host's own and has no code (rule
R224). -/
inductive SourceClass where
  /-- `FormatError`. -/
  | formatError
  /-- `EncodingError`. -/
  | encodingError
  deriving DecidableEq, Repr

/-- How a host that must report in the source's classes reports a result code of a command (rule R222): class 3 as
`EncodingError`, class 4 as `FormatError` when raised by `DBYTE` and `EncodingError` otherwise. -/
def ResultCode.sourceClass (e : ResultCode) (raisedBy : Opcode) : Option SourceClass :=
  match e with
  | .ok | .aborted => none
  | .fmtTrunc | .fmtPad | .fmtNoCode | .fmtTrail | .fmtEmpty | .fmtPrefix | .fmtDup | .fmtLong => some .formatError
  | .encNoCode | .encChar | .seq | .illegal | .range => some .encodingError
  | .overflow => if raisedBy = .dbyte then some .formatError else some .encodingError

/-- `original_size` of a compress call: the root's weight, 0 without a tree (rule R45). -/
def State.compressOriginalSize (s : State) : Count :=
  (s.nodeAt s.root).weight

/-- `compressed_size` of a compress call after `PFLUSH` (rule R45). -/
def State.compressCompressedSize (s : State) : Count :=
  s.outcnt

/-- `original_size` of a decompress call after `DEND` (rule R45). -/
def State.decompressOriginalSize (s : State) : Count :=
  s.dcnt

/-- `compressed_size` of a decompress call after `DEND` (rule R45). -/
def State.decompressCompressedSize (s : State) : Count :=
  s.dincnt

/-! ## The opcode table, the fault table and the mode table of the spec, as data -/

/-- A row of spec/opcode_table.json: a word `w` is this command exactly when `w AND mask = value` (rule R85). -/
structure TableRow where
  /-- The command. -/
  opcode : Opcode
  /-- The row's `match`. -/
  value : CmdWord
  /-- The row's `mask`. -/
  mask : CmdWord
  deriving DecidableEq, Repr

/-- spec/opcode_table.json, row for row. -/
def opcodeTable : List TableRow :=
  [⟨.nop, 0x000000000000, 0xFFFFFFFFFFFF⟩,
   ⟨.clr, 0x010000000000, 0xFFFFFFFFFFFF⟩,
   ⟨.csrr, 0x020000000000, 0xFFFFFFFFFF00⟩] ++
  [⟨.fset, 0x100000000000, 0xFF0000000000⟩,
   ⟨.fcnt, 0x110000000000, 0xFF00FFFFFFFF⟩,
   ⟨.fget, 0x120000000000, 0xFF00FFFFFFFF⟩] ++
  [⟨.build, 0x200000000000, 0xFFFFFFFFFFFF⟩,
   ⟨.nwgt, 0x210000000000, 0xFFFFFFFFFE00⟩,
   ⟨.nlnk, 0x220000000000, 0xFFFFFFFFFE00⟩] ++
  [⟨.assign, 0x300000000000, 0xFFFFFFFFFFFF⟩,
   ⟨.clen, 0x310000000000, 0xFF00FFFFFFFF⟩,
   ⟨.cbit, 0x320000000000, 0xFF00FFFFFF00⟩,
   ⟨.cbegin, 0x330000000000, 0xFF00FFFFFFFF⟩,
   ⟨.cpush, 0x340000000000, 0xFFFFFFFFFFFE⟩,
   ⟨.cend, 0x350000000000, 0xFFFFFFFFFFFF⟩] ++
  [⟨.pack, 0x400000000000, 0xFF00FFFFFFFF⟩,
   ⟨.pchr, 0x410000000000, 0xFF00FFFFFFFF⟩,
   ⟨.pflush, 0x420000000000, 0xFFFFFFFFFFFF⟩] ++
  [⟨.dbegin, 0x500000000000, 0xFFFF00000000⟩,
   ⟨.dbyte, 0x510000000000, 0xFF00FFFFFFFF⟩,
   ⟨.dend, 0x520000000000, 0xFFFFFFFFFFFF⟩]

/-- The faults a command can raise besides `E_ILLEGAL` (rule R225). -/
def faultsOf : Opcode → List ResultCode
  | .nop | .clr | .csrr | .fset | .fget | .clen => []
  | .fcnt | .build | .pflush => [.overflow]
  | .nwgt | .nlnk | .cbit => [.range]
  | .assign | .dbegin => [.seq]
  | .cbegin => [.seq, .fmtDup]
  | .cpush => [.seq, .fmtLong]
  | .cend => [.seq, .fmtEmpty, .fmtDup, .fmtPrefix]
  | .pack => [.encNoCode, .overflow]
  | .pchr => [.encChar, .overflow]
  | .dbyte => [.seq, .fmtTrail, .overflow, .fmtPad, .fmtNoCode]
  | .dend => [.seq, .fmtTrunc]

/-- The three mode flags. -/
structure Modes where
  /-- `PACT`. -/
  pact : Bool
  /-- `DACT`. -/
  dact : Bool
  /-- `LACT`. -/
  lact : Bool
  deriving DecidableEq, Repr

/-- The mode flags of a state. -/
def State.modes (s : State) : Modes :=
  { pact := s.pact, dact := s.dact, lact := s.lact }

/-- The column "needs" of rule R255: the condition whose failure raises `E_SEQ` (rule R226). -/
def modeNeeds (o : Opcode) (m : Modes) : Bool :=
  match o with
  | .assign => !m.pact && !m.dact
  | .cbegin => !m.lact
  | .cpush => m.lact
  | .cend => m.lact && !m.pact && !m.dact
  | .dbegin => !m.dact
  | .dbyte | .dend => m.dact
  | .nop | .clr | .csrr | .fset | .fcnt | .fget | .build | .nwgt | .nlnk | .clen | .cbit | .pack | .pchr | .pflush => true

/-- The columns "after" of rule R255. -/
def modesAfter (o : Opcode) (m : Modes) : Modes :=
  match o with
  | .clr => { pact := false, dact := false, lact := false }
  | .cbegin => { m with lact := true }
  | .cend => { m with lact := false }
  | .pack | .pchr => { m with pact := true }
  | .pflush => { m with pact := false }
  | .dbegin => { m with dact := true }
  | .dend => { m with dact := false }
  | .nop | .csrr | .fset | .fcnt | .fget | .build | .nwgt | .nlnk | .clen | .cbit | .assign | .cpush | .dbyte => m

/-! ## Bits of bytes (rule R57) -/

/-- The bits of a byte in stream order: bit 7 first. -/
def bitsOfByte (v : Byte) : Bits :=
  [v.getLsbD 7, v.getLsbD 6, v.getLsbD 5, v.getLsbD 4, v.getLsbD 3, v.getLsbD 2, v.getLsbD 1, v.getLsbD 0]

/-- The bit stream that a sequence of bytes holds (rule R57). -/
def bitsOfBytes (bytes : List Byte) : Bits :=
  bytes.flatMap bitsOfByte

/-- The bits a packing command adds to the logical bit stream, under a code file (rule R180). -/
def bitsAccepted (c : Cells 8 Bits) : Instr → Option Bits
  | .pack sym => if readCode c sym = [] then none else some (readCode c sym)
  | .pchr ch => if ch = 0x30 then some [false] else if ch = 0x31 then some [true] else none
  | _ => none

/-! ## Codes (rules R10, R154, R155) -/

/-- No present entry is a prefix of another one (rule R154). -/
def PrefixFree (c : Cells 8 Bits) : Prop :=
  ∀ a b : Byte, a ≠ b → readCode c a ≠ [] → readCode c b ≠ [] → ¬ readCode c a <+: readCode c b

/-- The number of present keys of a frequency file (rule R21). -/
def keyCount (f : Cells 8 Count) : Nat :=
  allSyms.countP fun b => readFreq f b != 0

/-- The exact sum of all frequencies (rule R130). -/
def freqSum (f : Cells 8 Count) : Nat :=
  (allSyms.map fun b => (readFreq f b).toNat).sum

/-- The weighted sum of code lengths, frequency × length, over all symbols (rules R138, R155). -/
def cost (f : Cells 8 Count) (code : Byte → Bits) : Nat :=
  (allSyms.map fun b => (readFreq f b).toNat * (code b).length).sum

/-- The codes of the present keys are prefix-free (rule R155). -/
def PrefixFreeOnKeys (f : Cells 8 Count) (code : Byte → Bits) : Prop :=
  ∀ a b : Byte, a ≠ b → readFreq f a ≠ 0 → readFreq f b ≠ 0 → ¬ code a <+: code b

/-! ## Trees (rules R26, R131, R133, R151) -/

/-- `h` is a child of an internal node that stands at `p`. -/
def IsChild (a : Cells 9 Node) (p h : Handle) : Prop :=
  ∃ w l r, readNode a p = .internal w l r ∧ (l = h ∨ r = h)

/-- The number of leaves of an arena. -/
def leafCount (a : Cells 9 Node) : Nat :=
  allSyms.countP fun b => readNode a (leafHandle b) != .invalid

/-- The empty tree (rule R26, first case). -/
structure EmptyTree (a : Cells 9 Node) (root : Handle) (nnode : BitVec 9) : Prop where
  /-- `ROOT = NONE`. -/
  root_none : root = Config.none
  /-- `NNODE = 0`. -/
  nnode_zero : nnode = 0
  /-- Every entry is `Invalid`. -/
  all_invalid : ∀ h, readNode a h = .invalid

/-- A tree over `n` leaves (rule R26, second case, and the ranges of rule R24). -/
structure FullTree (a : Cells 9 Node) (root : Handle) (nnode : BitVec 9) (n : Nat) : Prop where
  /-- There is a leaf. -/
  pos : 1 ≤ n
  /-- `n` counts the leaves. -/
  count : leafCount a = n
  /-- `NNODE = 2n - 1`. -/
  nnode_eq : nnode.toNat = 2 * n - 1
  /-- A leaf stands at the handle equal to its `sym`, with a weight greater than 0 (rule R24). -/
  leaves : ∀ b, readNode a (leafHandle b) = .invalid ∨ ∃ w, w ≠ 0 ∧ readNode a (leafHandle b) = .leaf b w
  /-- The internal nodes are exactly the handles 256 to `256 + n - 2`. -/
  internals : ∀ h : Handle, 256 ≤ h.toNat →
    (if h.toNat < 256 + (n - 1) then ∃ w l r, readNode a h = .internal w l r else readNode a h = .invalid)
  /-- `ROOT` is `256 + n - 2`, or the single leaf. -/
  root_eq : if n = 1 then root.toNat < 256 ∧ readNode a root ≠ .invalid else root.toNat = 256 + n - 2
  /-- Both children are valid and different, internal ones stand below, and the weight is the children's sum. -/
  children : ∀ h w l r, readNode a h = .internal w l r →
    l ≠ r ∧ readNode a l ≠ .invalid ∧ readNode a r ≠ .invalid ∧
    (256 ≤ l.toNat → l < h) ∧ (256 ≤ r.toNat → r < h) ∧
    w.toNat = (readNode a l).weight.toNat + (readNode a r).weight.toNat
  /-- Every valid node other than `ROOT` is the child of exactly one internal node. -/
  parents : ∀ h, readNode a h ≠ .invalid → h ≠ root → ∃ p, IsChild a p h ∧ ∀ q, IsChild a q h → q = p

/-- Rule R26. -/
def TreeInv (a : Cells 9 Node) (root : Handle) (nnode : BitVec 9) : Prop :=
  EmptyTree a root nnode ∨ ∃ n, FullTree a root nnode n

/-- The candidates of merge number `k` (rule R130): the valid nodes that exist before it and that no earlier merge has
taken. -/
def CandidateAt (a : Cells 9 Node) (k : Nat) (h : Handle) : Prop :=
  readNode a h ≠ .invalid ∧ h.toNat < 256 + k ∧ ∀ p : Handle, p.toNat < 256 + k → ¬ IsChild a p h

/-- The order of rule R131 on the nodes of an arena: smaller weight first, then smaller handle. -/
def NodeBefore (a : Cells 9 Node) (x y : Handle) : Prop :=
  (readNode a x).weight.toNat < (readNode a y).weight.toNat ∨
    ((readNode a x).weight = (readNode a y).weight ∧ x.toNat < y.toNat)

/-- The label sequence `p` leads from the node at a handle down to the leaf of a symbol: left edges carry 0 and right
edges 1 (rule R151). -/
inductive LeadsTo (a : Cells 9 Node) : Handle → Bits → Byte → Prop where
  /-- A leaf is reached by no edge. -/
  | here (b : Byte) : LeadsTo a (leafHandle b) [] b
  /-- Down the edge to the left child. -/
  | left {h l r : Handle} {w : Count} {p : Bits} {b : Byte} (hn : readNode a h = .internal w l r) (hp : LeadsTo a l p b) :
    LeadsTo a h (false :: p) b
  /-- Down the edge to the right child. -/
  | right {h l r : Handle} {w : Count} {p : Bits} {b : Byte} (hn : readNode a h = .internal w l r) (hp : LeadsTo a r p b) :
    LeadsTo a h (true :: p) b

/-- An order on candidates that refines "smaller weight first" (rule R131, 93 U1). -/
def RefinesWeight (before : Cand → Cand → Bool) : Prop :=
  ∀ x y : Cand, x.weight < y.weight → before x y = true ∧ before y x = false

/-! ## Decoding (rules R200, R202) -/

/-- The least symbol whose entry is `p` (rule R200's "the least such t"). -/
def LeastWithCode (c : Cells 8 Bits) (p : Bits) (t : Byte) : Prop :=
  readCode c t = p ∧ ∀ u : Byte, u < t → readCode c u ≠ p

/-- A bit string is read bit by bit from `rem` symbols still to emit and position `p`: it leaves `rem'` symbols and
position `p'` and emits `out`; once `rem` is 0 only 0 bits pass (rules R200, R202). -/
inductive Reads (c : Cells 8 Bits) : Nat → Bits → Bits → Nat → Bits → List Byte → Prop where
  /-- No bit left. -/
  | done (rem : Nat) (p : Bits) : Reads c rem p [] rem p []
  /-- A pad bit. -/
  | pad {p bs p' : Bits} {rem' : Nat} {out : List Byte} (h : Reads c 0 p bs rem' p' out) :
    Reads c 0 p (false :: bs) rem' p' out
  /-- A bit that completes a code. -/
  | leaf {rem rem' : Nat} {p bs p' : Bits} {b : Bool} {t : Byte} {out : List Byte}
    (ht : LeastWithCode c (p ++ [b]) t) (h : Reads c rem [] bs rem' p' out) :
    Reads c (rem + 1) p (b :: bs) rem' p' (t :: out)
  /-- A bit that leads to an inner node of the implied tree. -/
  | inner {rem rem' : Nat} {p bs p' : Bits} {b : Bool} {t : Byte} {out : List Byte}
    (hn : ∀ u, readCode c u ≠ p ++ [b]) (ht : (p ++ [b]) <+: readCode c t)
    (h : Reads c (rem + 1) (p ++ [b]) bs rem' p' out) :
    Reads c (rem + 1) p (b :: bs) rem' p' out

/-- The implied tree has neither a leaf nor an inner node at `p` (rule R200). -/
def NoBranch (c : Cells 8 Bits) (p : Bits) : Prop :=
  ∀ t, ¬ p <+: readCode c t

/-! ## The invariants of the state -/

/-- The table files are in canonical form, and no node stands at `NONE` (rule R52, log 12). -/
structure FilesInv (s : State) : Prop where
  /-- `FREQ`. -/
  freq_wf : Cells.wf 0 s.freq = true
  /-- `CODE`. -/
  code_wf : Cells.wf [] s.code = true
  /-- `NODE`. -/
  node_wf : Cells.wf Node.invalid s.node = true
  /-- Handle 511 indexes nothing. -/
  none_free : ∀ e ∈ s.node, e.1 ≠ Config.none

/-- The code table (rules R22, R23, R200). -/
structure TableInv (s : State) : Prop where
  /-- `NSYM` counts the present entries. -/
  nsym_eq : s.nsym.toNat = presentCount s.code
  /-- No code is longer than `MAXLEN`. -/
  short : ∀ b, (s.codeAt b).length ≤ 255
  /-- Every table the block can reach is prefix-free. -/
  free : PrefixFree s.code

/-- The packer (rules R37, R46, D23). -/
structure PackerInv (s : State) : Prop where
  /-- At most 7 bits are pending. -/
  short : s.acc.length ≤ 7
  /-- `NACC` is their number. -/
  nacc_eq : s.nacc.toNat = s.acc.length
  /-- `OUTCNT = |OUT|`. -/
  outcnt_eq : s.outcnt.toNat = s.out.length

/-- The decoder (rules R40, R47, R203). -/
structure DecoderInv (s : State) : Prop where
  /-- `PATH` is empty or a proper prefix of an entry. -/
  path_ok : s.path = [] ∨ ∃ t, properPrefix s.path (s.codeAt t) = true
  /-- `DREM = 0` implies `PATH = []`. -/
  done : s.drem = 0 → s.path = []
  /-- With no decode open `PATH` is empty. -/
  idle : s.dact = false → s.path = []
  /-- `DCNT + DREM` is a 32-bit count, the operand of the last `DBEGIN`. -/
  sum : s.dcnt.toNat + s.drem.toNat < 2 ^ 32
  /-- The symbols counted by `DCNT` are in `SYMOUT`. -/
  counted : s.dcnt.toNat ≤ s.symout.length

/-- The load registers (rule R48). -/
structure LoadInv (s : State) : Prop where
  /-- At most 255 bits. -/
  short : s.ldbuf.length ≤ 255

/-- The fault registers (rule R31). -/
structure FaultInv (s : State) : Prop where
  /-- Without a fault they hold their reset values. -/
  clear : s.fault = false → s.err = .ok ∧ s.errcmd = 0 ∧ s.errinfo = 0
  /-- With one `ERR` names it, and never `E_ABORTED`. -/
  named : s.fault = true → s.err ≠ .ok ∧ s.err ≠ .aborted

/-- Everything the spec says of the state at every command boundary. -/
structure Inv (s : State) : Prop where
  /-- Log 12. -/
  files : FilesInv s
  /-- Rules R22, R23, R200. -/
  table : TableInv s
  /-- Rule R26. -/
  tree : TreeInv s.node s.root s.nnode
  /-- Rules R37, R46. -/
  packer : PackerInv s
  /-- Rules R40, R47, R203. -/
  decoder : DecoderInv s
  /-- Rule R48. -/
  load : LoadInv s
  /-- Rule R31. -/
  faults : FaultInv s

end Sys2Proof.Machine
end

