-- ==== Sys2Proof/Certificates/Slice0/Obligations.lean ====
section
/-! DEFINITION. The statements about the block, for the provers. Each docstring names the rules a statement formalises.
A result statement gives the whole next state, so it is its own frame: every field that the state on its right does not
name is unchanged. -/

open Sys2Proof Sys2Proof.Machine

/-! ## Encoding (file 30) -/

/-- Words written out from the layout of rule R80 and the opcode map of rule R84, one or more per family, and words that
rule R86 calls illegal. -/
def Obligations.DecodeSampleWords : Prop :=
  decode 0x000000000000 = .ok .nop ∧ decode 0x010000000000 = .ok .clr ∧ decode 0x02000000000D = .ok (.csrr 13) ∧
  decode 0x104100000005 = .ok (.fset 0x41 5) ∧ decode 0x11FF00000000 = .ok (.fcnt 0xFF) ∧
  decode 0x200000000000 = .ok .build ∧ decode 0x2100000001FE = .ok (.nwgt 510) ∧ decode 0x220000000100 = .ok (.nlnk 256) ∧
  decode 0x3241000000FE = .ok (.cbit 0x41 254) ∧ decode 0x340000000001 = .ok (.cpush true) ∧
  decode 0x404100000000 = .ok (.pack 0x41) ∧ decode 0x413000000000 = .ok (.pchr 0x30) ∧
  decode 0x5000FFFFFFFF = .ok (.dbegin 0xFFFFFFFF) ∧ decode 0x516E00000000 = .ok (.dbyte 0x6E) ∧
  decode 0x530000000000 = .error .unassignedOpcode ∧ decode 0x000100000000 = .error .symNotZero ∧
  decode 0x210000000200 = .error .dataNotZero ∧ decode 0xFFFFFFFFFFFF = .error .unassignedOpcode

/-- The printed words and response of rule R90. -/
def Obligations.PrintedForms : Prop :=
  printWord (encode (.fcnt 0x41)) = "114100000000".toList ∧
  printWord (encode (.fset 0x41 5)) = "104100000005".toList ∧
  printWord (encode (.csrr 7)) = "020000000007".toList ∧
  printWord (encode (.dbegin 11)) = "50000000000B".toList ∧
  printResponse (Response.word { rc := .ok, data := 3 }) = "0000000003".toList ∧
  (∀ w : CmdWord, (printWord w).length = 12) ∧ (∀ w : RspWord, (printResponse w).length = 10)

/-- Decoding the encoding of any command gives the command back, with every operand at every value (rules R80, R82 to
R85). -/
def Obligations.DecodeEncode : Prop :=
  ∀ i : Instr, decode (encode i) = .ok i

/-- A legal word is the encoding of the command it decodes to, and bits 47:32 of the word are the command's (rules R82,
R85, R236). -/
def Obligations.EncodeDecode : Prop :=
  ∀ (w : CmdWord) (i : Instr), decode w = .ok i → encode i = w ∧ i.head = headOfWord w

/-- Rule R85: a word decodes to the row of the opcode table it matches under the row's mask, with the operands taken from
its fields, and is illegal when no row matches; no word matches two rows. -/
def Obligations.DecodeFollowsOpcodeTable : Prop :=
  (∀ (w : CmdWord) (i : Instr), decode w = .ok i ↔
    ∃ row ∈ opcodeTable, w &&& row.mask = row.value ∧ i = row.opcode.instr (w.extractLsb' 32 8) (w.extractLsb' 0 32)) ∧
  (∀ w : CmdWord, (∃ e, decode w = .error e) ↔ ∀ row ∈ opcodeTable, w &&& row.mask ≠ row.value) ∧
  (∀ w : CmdWord, ∀ r ∈ opcodeTable, ∀ q ∈ opcodeTable,
    w &&& r.mask = r.value → w &&& q.mask = q.value → r = q)

/-- Rule R86: which words are illegal, and what the block answers to one. -/
def Obligations.IllegalWords : Prop :=
  (∀ w : CmdWord, (∃ e, decode w = .error e) ↔
    (let op := (w.extractLsb' 40 8).toNat
     (0x03 ≤ op ∧ op ≤ 0x0F) ∨ (0x13 ≤ op ∧ op ≤ 0x1F) ∨ (0x23 ≤ op ∧ op ≤ 0x2F) ∨ (0x36 ≤ op ∧ op ≤ 0x3F) ∨
     (0x43 ≤ op ∧ op ≤ 0x4F) ∨ (0x53 ≤ op ∧ op ≤ 0xFF)) ∨
    ∃ row ∈ opcodeTable, row.value.extractLsb' 40 8 = w.extractLsb' 40 8 ∧ w &&& row.mask ≠ row.value) ∧
  (∀ (s : State) (w : CmdWord) (es : List HostEvent), s.pending = .command w :: es → (∃ e, decode w = .error e) →
    (s.fault = false →
      step s = .next (State.afterFault { s with pending := es } (w.extractLsb' 32 16) .illegal (w.extractLsb' 0 32))) ∧
    (s.fault = true → step s = .next (State.afterAbort { s with pending := es })))

/-! ## One step -/

/-- When the host's next event is a word that decodes to a command, a step is that command's `exec` at the state without
the event (rules R14, R27, R231; the list of events is the model's, log 1). -/
def Obligations.StepRunsDecodedCommand : Prop :=
  ∀ (s : State) (w : CmdWord) (es : List HostEvent) (i : Instr),
    s.pending = .command w :: es → decode w = .ok i → step s = exec i { s with pending := es }

/-- With nothing issued a step leaves the state as it is, and a reset gives the reset state and no response (rules R250 to
R253; log 1 to log 4). -/
def Obligations.StepWaitsAndResets : Prop :=
  (∀ s : State, s.pending = [] → step s = .next s) ∧
  (∀ (s : State) (es : List HostEvent), s.pending = .reset :: es →
    step s = .next { State.reset with pending := es, responses := s.responses })

/-- Rule R231, the common checks: while `FAULT = 1` only a legal `CLR` or `CSRR` runs and every other word, legal or not,
gets `E_ABORTED` with data `ERR` and changes nothing; then an illegal word raises `E_ILLEGAL`; then the command's rule
runs. -/
def Obligations.CommonChecks : Prop :=
  ∀ (s : State) (w : CmdWord) (es : List HostEvent), s.pending = .command w :: es →
    (s.fault = true →
      (∀ i, decode w = .ok i → i.opcode = .clr ∨ i.opcode = .csrr → step s = exec i { s with pending := es }) ∧
      (∀ i, decode w = .ok i → i.opcode ≠ .clr → i.opcode ≠ .csrr →
        step s = .next (State.afterAbort { s with pending := es }) ∧
        exec i { s with pending := es } = .next (State.afterAbort { s with pending := es })) ∧
      (∀ e, decode w = .error e → step s = .next (State.afterAbort { s with pending := es }))) ∧
    (s.fault = false →
      (∀ e, decode w = .error e →
        step s = .next (State.afterFault { s with pending := es } (headOfWord w) .illegal (dataOfWord w))) ∧
      (∀ i, decode w = .ok i → step s = exec i { s with pending := es }))

/-- Rule R91: the expansions of the pseudo-instructions, and wherever an expansion is cut in two: when the first part has
left a fault behind, each command of the rest gets `E_ABORTED` with data `ERR` and nothing else changes. -/
def Obligations.PseudoInstructions : Prop :=
  Pseudo.mkcode.expand = [.build, .assign] ∧
  (∀ text, (Pseudo.fcnts text).expand = text.map fun c => .fcnt c) ∧
  (∀ text, (Pseudo.packs text).expand = text.map fun c => .pack c) ∧
  (∀ sym bits, (Pseudo.cdef sym bits).expand = [.cbegin sym] ++ bits.map (fun b => .cpush b) ++ [.cend]) ∧
  (∀ bytes, (Pseudo.dfeed bytes).expand = bytes.map fun v => .dbyte v) ∧
  (∀ (p : Pseudo) (first rest : List Instr) (s t : State), p.expand = first ++ rest → execAll first s = .next t →
    t.fault = true →
    execAll rest t = .next
      { t with
        responses := t.responses ++ List.replicate rest.length { rc := .aborted, data := t.err.byte.setWidth 32 } })

/-! ## Reset and the control commands (files 10, 40) -/

/-- Rule R49: the state after a hardware reset and after every `CLR`. The two fields of the model's own are kept (log 1,
log 2). -/
def Obligations.ResetAndClrState : Prop :=
  (∀ b, State.reset.freqAt b = 0) ∧ (∀ b, State.reset.codeAt b = []) ∧ State.reset.nsym = 0 ∧
  (∀ h, State.reset.nodeAt h = .invalid) ∧ State.reset.root = 0x1FF ∧ State.reset.nnode = 0 ∧
  State.reset.fault = false ∧ State.reset.pact = false ∧ State.reset.dact = false ∧ State.reset.lact = false ∧
  State.reset.err.byte = 0 ∧ State.reset.errcmd = 0 ∧ State.reset.errinfo = 0 ∧
  State.reset.acc = [] ∧ State.reset.nacc = 0 ∧ State.reset.outcnt = 0 ∧
  State.reset.drem = 0 ∧ State.reset.dcnt = 0 ∧ State.reset.dincnt = 0 ∧ State.reset.path = [] ∧
  State.reset.ldsym = 0 ∧ State.reset.ldbuf = [] ∧ State.reset.out = [] ∧ State.reset.symout = [] ∧
  (∀ s : State, exec .clr s =
    .next { State.reset with pending := s.pending, responses := s.responses ++ [{ rc := .ok, data := 0 }] }) ∧
  (∀ (s : State) (es : List HostEvent), s.pending = .reset :: es →
    step s = .next { State.reset with pending := es, responses := s.responses })

/-- Rule R110, `NOP`: it leaves the state unchanged; while `FAULT = 1` it is aborted. -/
def Obligations.NopRule : Prop :=
  encode .nop = 0x000000000000 ∧
  ∀ s : State, (s.fault = false → exec .nop s = .next (s.afterOk 0)) ∧
    (s.fault = true → exec .nop s = .next s.afterAbort)

/-- Rule R111, `CLR`: everything takes its reset value, in any state; a second `CLR` changes nothing. -/
def Obligations.ClrRule : Prop :=
  encode .clr = 0x010000000000 ∧
  (∀ s : State, exec .clr s = .next (s.blockReset.afterOk 0)) ∧
  (∀ s t : State, exec .clr s = .next t → exec .clr t = .next (t.afterOk 0))

/-- Rules R44 and R112, `CSRR idx`, in any state: the value of each register (rules R30 to R43), 0 for a reserved index,
and nothing written; a `CSRR` word with a nonzero must-be-zero bit is illegal. -/
def Obligations.CsrrRule : Prop :=
  (∀ idx : Byte, encode (.csrr idx) = 0x02#8 ++ 0x00#8 ++ 0x000000#24 ++ idx) ∧
  (∀ s : State,
    exec (.csrr 0) s = .next (s.afterOk
      (BitVec.ofNat 32 (s.fault.toNat + 2 * s.pact.toNat + 4 * s.dact.toNat + 8 * s.lact.toNat))) ∧
    exec (.csrr 1) s = .next (s.afterOk (s.err.byte.setWidth 32)) ∧
    exec (.csrr 2) s = .next (s.afterOk (s.errcmd.setWidth 32)) ∧
    exec (.csrr 3) s = .next (s.afterOk s.errinfo) ∧
    exec (.csrr 4) s = .next (s.afterOk (s.nsym.setWidth 32)) ∧
    exec (.csrr 5) s = .next (s.afterOk (s.root.setWidth 32)) ∧
    exec (.csrr 6) s = .next (s.afterOk (s.nnode.setWidth 32)) ∧
    exec (.csrr 7) s = .next (s.afterOk s.outcnt) ∧
    (∀ v : Byte, s.acc.length ≤ 7 → bitsOfByte v = s.acc ++ List.replicate (8 - s.acc.length) false →
      exec (.csrr 8) s = .next (s.afterOk (BitVec.ofNat 32 (256 * s.nacc.toNat + v.toNat)))) ∧
    exec (.csrr 9) s = .next (s.afterOk s.drem) ∧
    exec (.csrr 10) s = .next (s.afterOk s.dcnt) ∧
    exec (.csrr 11) s = .next (s.afterOk s.dincnt) ∧
    (s.path.length ≤ 255 → exec (.csrr 12) s = .next (s.afterOk (BitVec.ofNat 32 s.path.length))) ∧
    (s.ldbuf.length ≤ 255 →
      exec (.csrr 13) s = .next (s.afterOk (BitVec.ofNat 32 (256 * s.ldsym.toNat + s.ldbuf.length)))) ∧
    (∀ idx : Byte, 14 ≤ idx.toNat → exec (.csrr idx) s = .next (s.afterOk 0)) ∧
    (∀ idx : Byte, ∃ d, exec (.csrr idx) s = .next (s.afterOk d))) ∧
  (∀ (s : State) (w : CmdWord) (es : List HostEvent), s.pending = .command w :: es → w.extractLsb' 40 8 = 0x02 →
    w &&& 0x00FFFFFFFF00 ≠ 0 →
    (s.fault = false → step s = .next (State.afterFault { s with pending := es } (headOfWord w) .illegal (dataOfWord w))) ∧
    (s.fault = true → step s = .next (State.afterAbort { s with pending := es })))

/-! ## The frequency table (file 41) -/

/-- Rule R120, `FSET`: one entry is written, nothing else. -/
def Obligations.FsetRule : Prop :=
  ∀ (sym : Byte) (cnt : Count), encode (.fset sym cnt) = 0x10#8 ++ sym ++ cnt ∧
    ∀ s : State, s.fault = false →
      ∃ f, exec (.fset sym cnt) s = .next (State.afterOk { s with freq := f } 0) ∧
        ∀ b, readFreq f b = if b = sym then cnt else s.freqAt b

/-- Rule R121, `FCNT`: the entry grows by 1 and never wraps. -/
def Obligations.FcntRule : Prop :=
  ∀ sym : Byte, encode (.fcnt sym) = 0x11#8 ++ sym ++ 0x00000000#32 ∧
    ∀ s : State, s.fault = false →
      ((s.freqAt sym).toNat = 2 ^ 32 - 1 →
        exec (.fcnt sym) s = .next (s.afterFault (0x11#8 ++ sym) .overflow (sym.setWidth 32))) ∧
      ((s.freqAt sym).toNat < 2 ^ 32 - 1 →
        ∃ f, exec (.fcnt sym) s =
            .next (State.afterOk { s with freq := f } (BitVec.ofNat 32 ((s.freqAt sym).toNat + 1))) ∧
          (∀ b, (readFreq f b).toNat = if b = sym then (s.freqAt sym).toNat + 1 else (s.freqAt b).toNat))

/-- Rule R122, `FGET`: the entry is read and nothing is written. -/
def Obligations.FgetRule : Prop :=
  ∀ sym : Byte, encode (.fget sym) = 0x12#8 ++ sym ++ 0x00000000#32 ∧
    ∀ s : State, s.fault = false → exec (.fget sym) s = .next (s.afterOk (s.freqAt sym))

/-- Rule R123: counting a byte sequence adds each byte's number of occurrences to its entry, in whatever order, and
changes nothing else in the block; from the reset state the entries are the numbers of occurrences. -/
def Obligations.CountingContract : Prop :=
  (∀ (x : List Byte) (s : State), s.fault = false → (∀ b, (s.freqAt b).toNat + x.count b < 2 ^ 32) →
    ∃ f rs, execAll (x.map .fcnt) s = .next { s with freq := f, responses := rs } ∧
      ∀ b, (readFreq f b).toNat = (s.freqAt b).toNat + x.count b) ∧
  (∀ x : List Byte, (∀ b, x.count b < 2 ^ 32) →
    ∃ t, execAll (x.map .fcnt) State.reset = .next t ∧ t.fault = false ∧ ∀ b, (t.freqAt b).toNat = x.count b)

/-! ## The tree builder (file 42) -/

/-- `BUILD` where the sum of all frequencies does not fit 32 bits: fault entry, and the tree is as it was (rule R130). -/
def Obligations.BuildOverflow : Prop :=
  ∀ s : State, s.fault = false → 2 ^ 32 ≤ freqSum s.freq →
    exec .build s = .next (s.afterFault 0x2000 .overflow 0x100)

/-- Rules R132 and R134: with `n ≥ 1` present keys `BUILD` puts a leaf at every key, internal nodes at the handles 256 to
256 + n - 2 and nothing elsewhere; the root carries the sum of all frequencies. -/
def Obligations.BuildShape : Prop :=
  ∀ (s : State) (n : Nat), s.fault = false → freqSum s.freq < 2 ^ 32 → keyCount s.freq = n → 1 ≤ n →
    ∃ a root, exec .build s = .next (State.afterOk
        { s with node := a, root := root, nnode := BitVec.ofNat 9 (2 * n - 1) } (BitVec.ofNat 32 (2 * n - 1))) ∧
      (∀ b, readNode a (leafHandle b) = if s.freqAt b = 0 then .invalid else .leaf b (s.freqAt b)) ∧
      (∀ h : Handle, 256 ≤ h.toNat →
        ((∃ w l r, readNode a h = .internal w l r) ↔ h.toNat < 256 + (n - 1)) ∧
        (256 + (n - 1) ≤ h.toNat → readNode a h = .invalid)) ∧
      (readNode a root).weight.toNat = freqSum s.freq ∧
      (2 ≤ n → root.toNat = 256 + n - 2) ∧
      (n = 1 → ∃ b, s.freqAt b ≠ 0 ∧ root = leafHandle b)

/-- Rule R135, the empty table. -/
def Obligations.BuildEmptyTable : Prop :=
  ∀ s : State, s.fault = false → (∀ b, s.freqAt b = 0) →
    exec .build s = .next (State.afterOk { s with node := [], root := 0x1FF, nnode := 0 } 0)

/-- Rule R136, one key: a single leaf is its own root. -/
def Obligations.BuildSingleKey : Prop :=
  ∀ (s : State) (b : Byte), s.fault = false → s.freqAt b ≠ 0 → (∀ b', b' ≠ b → s.freqAt b' = 0) →
    exec .build s = .next (State.afterOk
      { s with node := [(b.setWidth 9, .leaf b (s.freqAt b))], root := b.setWidth 9, nnode := 1 } 1)

/-- Rules R131 and R133: merge number `k` takes the least and the second-least candidates under (weight, handle), the
first as the left child and the second as the right child of the node at handle 256 + k. -/
def Obligations.BuildMergesGreedily : Prop :=
  ∀ s t : State, s.fault = false → exec .build s = .next t → t.fault = false →
    ∀ k : Nat, k + 1 < keyCount s.freq →
      ∃ w l r, readNode t.node (BitVec.ofNat 9 (256 + k)) = .internal w l r ∧
        CandidateAt t.node k l ∧ CandidateAt t.node k r ∧ l ≠ r ∧
        (∀ x, CandidateAt t.node k x → x ≠ l → NodeBefore t.node l x) ∧
        (∀ x, CandidateAt t.node k x → x ≠ l → x ≠ r → NodeBefore t.node r x) ∧
        w.toNat = (readNode t.node l).weight.toNat + (readNode t.node r).weight.toNat

/-- Rule R139, `NWGT`. -/
def Obligations.NwgtRule : Prop :=
  ∀ h : Handle, encode (.nwgt h) = 0x21#8 ++ 0x00#8 ++ 0x000000#23 ++ h ∧
    ∀ s : State, s.fault = false →
      (h = 511 → exec (.nwgt h) s = .next (s.afterFault 0x2100 .range 511)) ∧
      (h ≠ 511 → s.nodeAt h = .invalid → exec (.nwgt h) s = .next (s.afterOk 0)) ∧
      (∀ b w, h ≠ 511 → s.nodeAt h = .leaf b w → exec (.nwgt h) s = .next (s.afterOk w)) ∧
      (∀ w l r, h ≠ 511 → s.nodeAt h = .internal w l r → exec (.nwgt h) s = .next (s.afterOk w))

/-- Rule R140, `NLNK`: the link word of each kind of node. -/
def Obligations.NlnkRule : Prop :=
  ∀ h : Handle, encode (.nlnk h) = 0x22#8 ++ 0x00#8 ++ 0x000000#23 ++ h ∧
    ∀ s : State, s.fault = false →
      (h = 511 → exec (.nlnk h) s = .next (s.afterFault 0x2200 .range 511)) ∧
      (h ≠ 511 → s.nodeAt h = .invalid → exec (.nlnk h) s = .next (s.afterOk 0)) ∧
      (∀ b w, h ≠ 511 → s.nodeAt h = .leaf b w →
        exec (.nlnk h) s = .next (s.afterOk (BitVec.ofNat 32 (0x80000000 + b.toNat)))) ∧
      (∀ w l r, h ≠ 511 → s.nodeAt h = .internal w l r →
        exec (.nlnk h) s = .next (s.afterOk (BitVec.ofNat 32 (0xC0000000 + r.toNat * 2 ^ 16 + l.toNat))))

/-! ## The code generator (file 43) -/

/-- Rules R150 to R153, `ASSIGN`: refused while the packer or the decoder is active; otherwise the whole table is
replaced, by nothing for the empty tree, by the one-bit code "0" for a lone symbol, and by the label sequences of the
paths from the root to the leaves for any other tree of rule R26. -/
def Obligations.AssignRule : Prop :=
  encode .assign = 0x300000000000 ∧
  ∀ s : State, s.fault = false →
    (s.pact = true ∨ s.dact = true → exec .assign s = .next (s.afterFault 0x3000 .seq s.status)) ∧
    (s.pact = false → s.dact = false → TreeInv s.node s.root s.nnode →
      ∃ c, exec .assign s = .next (State.afterOk
          { s with code := c, nsym := BitVec.ofNat 9 (presentCount c) } (BitVec.ofNat 32 (presentCount c))) ∧
        (s.root = 0x1FF → ∀ b, readCode c b = []) ∧
        (s.root.toNat < 256 → ∀ b, readCode c b = if leafHandle b = s.root then [false] else []) ∧
        (256 ≤ s.root.toNat → s.root ≠ 0x1FF →
          ∀ (b : Byte) (p : Bits), p ≠ [] ∧ readCode c b = p ↔ LeadsTo s.node s.root p b))

/-- Rule R154: after `BUILD` then `ASSIGN` the codes are prefix-free, and exactly the present keys have one. -/
def Obligations.CodesArePrefixFree : Prop :=
  ∀ s : State, s.fault = false → s.pact = false → s.dact = false → freqSum s.freq < 2 ^ 32 →
    ∃ t, execAll [.build, .assign] s = .next t ∧ t.fault = false ∧ PrefixFree t.code ∧
      ∀ b, t.codeAt b ≠ [] ↔ s.freqAt b ≠ 0

/-- Rule R157: the length of a code that `ASSIGN` produces. -/
def Obligations.CodeLengthBound : Prop :=
  ∀ s t : State, s.fault = false → TreeInv s.node s.root s.nnode → exec .assign s = .next t → t.fault = false →
    ∀ b, t.codeAt b ≠ [] →
      1 ≤ (t.codeAt b).length ∧ (2 ≤ t.nsym.toNat → (t.codeAt b).length ≤ t.nsym.toNat - 1) ∧
      (t.codeAt b).length ≤ 255

/-- Rule R155: after `BUILD` then `ASSIGN` with two keys or more, the weighted sum of code lengths is the least over all
prefix-free codes for those keys, and a more frequent key has no longer code. -/
def Obligations.CodesAreOptimal : Prop :=
  ∀ s : State, s.fault = false → s.pact = false → s.dact = false → freqSum s.freq < 2 ^ 32 → 2 ≤ keyCount s.freq →
    ∃ t, execAll [.build, .assign] s = .next t ∧ t.fault = false ∧
      (∀ code : Byte → Bits, PrefixFreeOnKeys s.freq code → cost s.freq t.codeAt ≤ cost s.freq code) ∧
      (∀ a b, (s.freqAt b).toNat < (s.freqAt a).toNat → s.freqAt b ≠ 0 →
        (t.codeAt a).length ≤ (t.codeAt b).length)

/-- Whatever order the builder takes candidates in, and whichever edge is labelled 0, the codes of a table with a key are
prefix-free and exactly the present keys have one (rules R131, R138, R154; 93 U1, U3). -/
def Obligations.EveryTieBreakIsPrefixFree : Prop :=
  ∀ (before : Cand → Cand → Bool) (label : Bool) (f : Cells 8 Count), freqSum f < 2 ^ 32 → 1 ≤ keyCount f →
    ∃ c, codesOfTree label (finalBuilder before f).arena (finalBuilder before f).root = some c ∧
      PrefixFree c ∧ ∀ b, readCode c b ≠ [] ↔ readFreq f b ≠ 0

/-- Whatever the tie-break, as long as it takes smaller weights first, the codes of a table with two keys or more have
the least weighted sum of lengths (rule R138; 93 U1, U3). -/
def Obligations.EveryTieBreakIsOptimal : Prop :=
  ∀ (before : Cand → Cand → Bool) (label : Bool) (f : Cells 8 Count), RefinesWeight before →
    freqSum f < 2 ^ 32 → 2 ≤ keyCount f →
    ∃ c, codesOfTree label (finalBuilder before f).arena (finalBuilder before f).root = some c ∧
      ∀ code : Byte → Bits, PrefixFreeOnKeys f code → cost f (readCode c) ≤ cost f code

/-- Rule R158, `CLEN` (an entry has at most 255 bits, rule R22). -/
def Obligations.ClenRule : Prop :=
  ∀ sym : Byte, encode (.clen sym) = 0x31#8 ++ sym ++ 0x00000000#32 ∧
    ∀ s : State, s.fault = false → exec (.clen sym) s = .next (s.afterOk (BitVec.ofNat 32 (s.codeAt sym).length))

/-- Rule R159, `CBIT`. -/
def Obligations.CbitRule : Prop :=
  ∀ sym pos : Byte, encode (.cbit sym pos) = 0x32#8 ++ sym ++ 0x000000#24 ++ pos ∧
    ∀ s : State, s.fault = false →
      ((s.codeAt sym).length ≤ pos.toNat →
        exec (.cbit sym pos) s = .next (s.afterFault (0x32#8 ++ sym) .range (pos.setWidth 32))) ∧
      (∀ h : pos.toNat < (s.codeAt sym).length,
        exec (.cbit sym pos) s = .next (s.afterOk (if (s.codeAt sym)[pos.toNat] then 1 else 0)))

/-- Rule R160, `CBEGIN`. -/
def Obligations.CbeginRule : Prop :=
  ∀ sym : Byte, encode (.cbegin sym) = 0x33#8 ++ sym ++ 0x00000000#32 ∧
    ∀ s : State, s.fault = false →
      (s.lact = true → exec (.cbegin sym) s = .next (s.afterFault (0x33#8 ++ sym) .seq s.status)) ∧
      (s.lact = false → s.codeAt sym ≠ [] →
        exec (.cbegin sym) s = .next (s.afterFault (0x33#8 ++ sym) .fmtDup (sym.setWidth 32))) ∧
      (s.lact = false → s.codeAt sym = [] →
        exec (.cbegin sym) s = .next (State.afterOk { s with ldsym := sym, ldbuf := [], lact := true } 0))

/-- Rule R161, `CPUSH`. -/
def Obligations.CpushRule : Prop :=
  encode (.cpush false) = 0x340000000000 ∧ encode (.cpush true) = 0x340000000001 ∧
  ∀ (bit : Bool) (s : State), s.fault = false →
    (s.lact = false → exec (.cpush bit) s = .next (s.afterFault 0x3400 .seq s.status)) ∧
    (s.lact = true → s.ldbuf.length = 255 →
      exec (.cpush bit) s = .next (s.afterFault 0x3400 .fmtLong (s.ldsym.setWidth 32))) ∧
    (s.lact = true → s.ldbuf.length ≠ 255 →
      exec (.cpush bit) s = .next (State.afterOk
        { s with ldbuf := s.ldbuf ++ [bit] } (BitVec.ofNat 32 (s.ldbuf.length + 1))))

/-- Rule R162, `CEND`: the checks in their order, and the commit. -/
def Obligations.CendRule : Prop :=
  encode .cend = 0x350000000000 ∧
  ∀ s : State, s.fault = false →
    (s.lact = false ∨ s.pact = true ∨ s.dact = true → exec .cend s = .next (s.afterFault 0x3500 .seq s.status)) ∧
    (s.lact = true → s.pact = false → s.dact = false →
      (s.ldbuf = [] → exec .cend s = .next (s.afterFault 0x3500 .fmtEmpty (s.ldsym.setWidth 32))) ∧
      (s.ldbuf ≠ [] → s.codeAt s.ldsym ≠ [] →
        exec .cend s = .next (s.afterFault 0x3500 .fmtDup (s.ldsym.setWidth 32))) ∧
      (s.ldbuf ≠ [] → s.codeAt s.ldsym = [] →
        (∀ t : Byte, s.codeAt t ≠ [] → s.codeAt t <+: s.ldbuf ∨ s.ldbuf <+: s.codeAt t →
          (∀ u : Byte, u < t → s.codeAt u = [] ∨ (¬ s.codeAt u <+: s.ldbuf ∧ ¬ s.ldbuf <+: s.codeAt u)) →
          exec .cend s = .next (s.afterFault 0x3500 .fmtPrefix (t.setWidth 32))) ∧
        ((∀ t : Byte, s.codeAt t = [] ∨ (¬ s.codeAt t <+: s.ldbuf ∧ ¬ s.ldbuf <+: s.codeAt t)) →
          ∃ c, exec .cend s = .next (State.afterOk
              { s with code := c, nsym := s.nsym + 1, lact := false } ((s.nsym + 1).setWidth 32)) ∧
            ∀ b, readCode c b = if b = s.ldsym then s.ldbuf else s.codeAt b)))

/-! ## The bit packer (file 44) -/

/-- Rule R181, `PACK`: the code joins the pending bits; every whole group of eight is appended to `OUT`, first bit in bit
7, and the rest stays pending. -/
def Obligations.PackRule : Prop :=
  ∀ sym : Byte, encode (.pack sym) = 0x40#8 ++ sym ++ 0x00000000#32 ∧
    ∀ s : State, s.fault = false →
      (s.codeAt sym = [] → exec (.pack sym) s = .next (s.afterFault (0x40#8 ++ sym) .encNoCode (sym.setWidth 32))) ∧
      (s.codeAt sym ≠ [] → 2 ^ 32 - 1 < s.outcnt.toNat + (s.acc ++ s.codeAt sym).length / 8 →
        exec (.pack sym) s = .next (s.afterFault (0x40#8 ++ sym) .overflow 0x101)) ∧
      (s.codeAt sym ≠ [] → s.outcnt.toNat + (s.acc ++ s.codeAt sym).length / 8 ≤ 2 ^ 32 - 1 →
        ∃ bytes rest, bitsOfBytes bytes ++ rest = s.acc ++ s.codeAt sym ∧ rest.length < 8 ∧
          exec (.pack sym) s = .next (State.afterOk
            { s with
              out := s.out ++ bytes
              outcnt := s.outcnt + BitVec.ofNat 32 bytes.length
              acc := rest
              nacc := BitVec.ofNat 3 rest.length
              pact := true }
            (s.outcnt + BitVec.ofNat 32 bytes.length)))

/-- Rule R182, `PCHR`: one bit given as the character '0' or '1'. -/
def Obligations.PchrRule : Prop :=
  ∀ ch : Byte, encode (.pchr ch) = 0x41#8 ++ ch ++ 0x00000000#32 ∧
    ∀ s : State, s.fault = false → s.acc.length ≤ 7 →
      (ch ≠ 0x30 → ch ≠ 0x31 → exec (.pchr ch) s = .next (s.afterFault (0x41#8 ++ ch) .encChar (ch.setWidth 32))) ∧
      (ch = 0x30 ∨ ch = 0x31 → s.acc.length = 7 → s.outcnt.toNat = 2 ^ 32 - 1 →
        exec (.pchr ch) s = .next (s.afterFault (0x41#8 ++ ch) .overflow 0x101)) ∧
      (ch = 0x30 ∨ ch = 0x31 → s.acc.length < 7 →
        exec (.pchr ch) s = .next (State.afterOk
          { s with acc := s.acc ++ [ch == 0x31], nacc := BitVec.ofNat 3 (s.acc.length + 1), pact := true } s.outcnt)) ∧
      (ch = 0x30 ∨ ch = 0x31 → s.acc.length = 7 → s.outcnt.toNat < 2 ^ 32 - 1 →
        ∃ byte, bitsOfByte byte = s.acc ++ [ch == 0x31] ∧
          exec (.pchr ch) s = .next (State.afterOk
            { s with out := s.out ++ [byte], outcnt := s.outcnt + 1, acc := [], nacc := 0, pact := true } (s.outcnt + 1)))

/-- Rule R183, `PFLUSH`: the last partial byte is padded with 0 bits on the right; with no pending bit nothing is
emitted. The premise on `NACC` is part of the stated invariant (rule R46). -/
def Obligations.PflushRule : Prop :=
  encode .pflush = 0x420000000000 ∧
  ∀ s : State, s.fault = false → s.nacc.toNat = s.acc.length →
    (s.acc = [] → exec .pflush s = .next (State.afterOk { s with pact := false } s.outcnt)) ∧
    (s.acc ≠ [] → s.outcnt.toNat = 2 ^ 32 - 1 → exec .pflush s = .next (s.afterFault 0x4200 .overflow 0x101)) ∧
    (s.acc ≠ [] → s.outcnt.toNat < 2 ^ 32 - 1 →
      ∃ byte, bitsOfByte byte = s.acc ++ List.replicate (8 - s.acc.length) false ∧
        exec .pflush s = .next (State.afterOk
          { s with out := s.out ++ [byte], outcnt := s.outcnt + 1, acc := [], nacc := 0, pact := false } (s.outcnt + 1)))

/-- Rules R180 and R184: a packing run of accepted `PACK` and `PCHR` commands from an empty packer. At its end the bytes
appended to `OUT` and the pending bits together are the logical bit stream, and `PFLUSH` pads it and, where `OUTCNT` was 0
at the start, reports the number of bytes, rounded up. -/
def Obligations.PackingRun : Prop :=
  ∀ (s : State) (run : List Instr) (stream : Bits), s.fault = false → s.acc = [] → s.nacc = 0 →
    (∀ i ∈ run, bitsAccepted s.code i ≠ none) →
    stream = run.flatMap (fun i => (bitsAccepted s.code i).getD []) →
    s.outcnt.toNat + (stream.length + 7) / 8 ≤ 2 ^ 32 - 1 →
    ∃ t u bytes padded, execAll run s = .next t ∧ t.fault = false ∧
      t.out = s.out ++ bytes ∧ bitsOfBytes bytes ++ t.acc = stream ∧ t.acc.length < 8 ∧
      t.outcnt.toNat = s.outcnt.toNat + bytes.length ∧
      exec .pflush t = .next u ∧ u.fault = false ∧ u.out = s.out ++ padded ∧
      bitsOfBytes padded = stream ++ List.replicate ((8 - stream.length % 8) % 8) false ∧
      u.responses = t.responses ++ [{ rc := .ok, data := u.outcnt }] ∧
      u.outcnt.toNat = s.outcnt.toNat + (stream.length + 7) / 8

/-! ## The decoder (file 45) -/

/-- Rule R201, `DBEGIN`. -/
def Obligations.DbeginRule : Prop :=
  ∀ n : Count, encode (.dbegin n) = 0x50#8 ++ 0x00#8 ++ n ∧
    ∀ s : State, s.fault = false →
      (s.dact = true → exec (.dbegin n) s = .next (s.afterFault 0x5000 .seq s.status)) ∧
      (s.dact = false →
        exec (.dbegin n) s = .next (State.afterOk
          { s with dact := true, drem := n, dcnt := 0, dincnt := 0, path := [] } 0))

/-- Rule R202, `DBYTE`: the checks in their order; then the byte is read bit by bit, bit 7 first (rule R200's walk, pad
bits once every symbol is emitted). It passes as a whole, or the first bit that fails is reported and nothing is
emitted; one of the three always happens. -/
def Obligations.DbyteRule : Prop :=
  ∀ v : Byte, encode (.dbyte v) = 0x51#8 ++ v ++ 0x00000000#32 ∧
    ∀ s : State, s.fault = false →
      (s.dact = false → exec (.dbyte v) s = .next (s.afterFault (0x51#8 ++ v) .seq s.status)) ∧
      (s.dact = true → s.drem = 0 →
        exec (.dbyte v) s = .next (s.afterFault (0x51#8 ++ v) .fmtTrail (v.setWidth 32))) ∧
      (s.dact = true → s.drem ≠ 0 → s.dincnt.toNat = 2 ^ 32 - 1 →
        exec (.dbyte v) s = .next (s.afterFault (0x51#8 ++ v) .overflow 0x102)) ∧
      (s.dact = true → s.drem ≠ 0 → s.dincnt.toNat ≠ 2 ^ 32 - 1 →
        (∀ rem p out, Reads s.code s.drem.toNat s.path (bitsOfByte v) rem p out →
          exec (.dbyte v) s = .next (State.afterOk
            { s with
              drem := BitVec.ofNat 32 rem
              dcnt := s.dcnt + BitVec.ofNat 32 out.length
              dincnt := s.dincnt + 1
              path := p
              symout := s.symout ++ out }
            (BitVec.ofNat 32 out.length))) ∧
        (∀ k p out, k < 8 → Reads s.code s.drem.toNat s.path ((bitsOfByte v).take (7 - k)) 0 p out →
          v.getLsbD k = true →
          exec (.dbyte v) s = .next (s.afterFault (0x51#8 ++ v) .fmtPad (BitVec.ofNat 32 k))) ∧
        (∀ k rem p out, k < 8 → Reads s.code s.drem.toNat s.path ((bitsOfByte v).take (7 - k)) (rem + 1) p out →
          NoBranch s.code (p ++ [v.getLsbD k]) →
          exec (.dbyte v) s = .next (s.afterFault (0x51#8 ++ v) .fmtNoCode (BitVec.ofNat 32 k))) ∧
        ((∃ rem p out, Reads s.code s.drem.toNat s.path (bitsOfByte v) rem p out) ∨
          (∃ k p out, k < 8 ∧ Reads s.code s.drem.toNat s.path ((bitsOfByte v).take (7 - k)) 0 p out ∧
            v.getLsbD k = true) ∨
          (∃ k rem p out, k < 8 ∧ Reads s.code s.drem.toNat s.path ((bitsOfByte v).take (7 - k)) (rem + 1) p out ∧
            NoBranch s.code (p ++ [v.getLsbD k]))))

/-- Rule R203, `DEND`. -/
def Obligations.DendRule : Prop :=
  encode .dend = 0x520000000000 ∧
  ∀ s : State, s.fault = false →
    (s.dact = false → exec .dend s = .next (s.afterFault 0x5200 .seq s.status)) ∧
    (s.dact = true → s.drem ≠ 0 → exec .dend s = .next (s.afterFault 0x5200 .fmtTrunc s.drem)) ∧
    (s.dact = true → s.drem = 0 → exec .dend s = .next (State.afterOk { s with dact := false } s.dcnt))

/-- Rule R204, the stop rule: a decode of `n` symbols that ends without a fault has emitted exactly `n`, whatever bytes
it was given. -/
def Obligations.DecodeStopsAtCount : Prop :=
  ∀ (s u : State) (n : Count) (payload : List Byte), s.fault = false → s.dact = false →
    execAll (decodeCommands n payload) s = .next u → u.fault = false →
    u.symout.length = s.symout.length + n.toNat ∧ u.dcnt = n ∧ u.drem = 0 ∧ u.dact = false ∧
    u.dincnt.toNat = payload.length

/-- Rule R205, the lone-symbol table: `n` copies of the symbol decode from ⌈n / 8⌉ zero bytes, one for every 0 bit, and
the first 1 bit, wherever it stands before the last symbol, raises `E_FMT_NOCODE`. -/
def Obligations.LoneSymbolTable : Prop :=
  ∀ (s : State) (b : Byte), s.fault = false → s.codeAt b = [false] → (∀ b', b' ≠ b → s.codeAt b' = []) →
    (∀ n : Count, s.dact = false →
      ∃ rs, execAll (decodeCommands n (List.replicate ((n.toNat + 7) / 8) 0x00)) s = .next
        { s with
          drem := 0
          dcnt := n
          dincnt := BitVec.ofNat 32 ((n.toNat + 7) / 8)
          path := []
          symout := s.symout ++ List.replicate n.toNat b
          responses := rs }) ∧
    (∀ (v : Byte) (k : Nat), s.dact = true → s.dincnt.toNat ≠ 2 ^ 32 - 1 → s.path = [] → k < 8 → 7 - k < s.drem.toNat →
      (∀ j, k < j → j < 8 → v.getLsbD j = false) → v.getLsbD k = true →
      exec (.dbyte v) s = .next (s.afterFault (0x51#8 ++ v) .fmtNoCode (BitVec.ofNat 32 k)))

/-- Packing a byte sequence with a prefix-free table, and decoding the bytes with the same table, gives the sequence
back: rule R207's packing and decoding halves, from any state with such a table. -/
def Obligations.PackThenDecode : Prop :=
  ∀ (s : State) (x : List Byte), s.fault = false → s.dact = false → s.acc = [] → s.nacc = 0 → PrefixFree s.code →
    (∀ b ∈ x, s.codeAt b ≠ []) → x.length < 2 ^ 32 →
    s.outcnt.toNat + ((x.map fun b => (s.codeAt b).length).sum + 7) / 8 ≤ 2 ^ 32 - 1 →
    ∃ t u payload, execAll (x.map .pack ++ [.pflush]) s = .next t ∧ t.fault = false ∧ t.out = s.out ++ payload ∧
      execAll (decodeCommands (BitVec.ofNat 32 x.length) payload) t = .next u ∧ u.fault = false ∧
      u.symout = s.symout ++ x

/-- Rule R207, the round trip through the block, with the table still in place and with the table loaded again after
`CLR`. -/
def Obligations.RoundTrip : Prop :=
  ∀ x : List Byte, x.length < 2 ^ 32 →
    ∃ t, execAll (compressCommands x) State.reset = .next t ∧ t.fault = false ∧
      (∃ u, execAll (decodeCommands (BitVec.ofNat 32 x.length) t.out) t = .next u ∧ u.fault = false ∧ u.symout = x) ∧
      (∃ u, execAll (.clr :: (loadCommands t.code ++ decodeCommands (BitVec.ofNat 32 x.length) t.out)) t = .next u ∧
        u.fault = false ∧ u.symout = x)

/-! ## Faults and modes (files 60, 70) -/

/-- The number of each of the sixteen result codes, no two alike, and the class of each, its high nibble (rules R221,
R222); a response word carries the number and the data (rule R81). -/
def Obligations.ResultCodeClasses : Prop :=
  ResultCode.ok.byte = 0x00 ∧
  ResultCode.fmtTrunc.byte = 0x10 ∧ ResultCode.fmtPad.byte = 0x11 ∧ ResultCode.fmtNoCode.byte = 0x12 ∧
  ResultCode.fmtTrail.byte = 0x13 ∧ ResultCode.fmtEmpty.byte = 0x14 ∧ ResultCode.fmtPrefix.byte = 0x15 ∧
  ResultCode.fmtDup.byte = 0x16 ∧ ResultCode.fmtLong.byte = 0x17 ∧
  ResultCode.encNoCode.byte = 0x20 ∧ ResultCode.encChar.byte = 0x21 ∧
  ResultCode.seq.byte = 0x30 ∧ ResultCode.illegal.byte = 0x31 ∧ ResultCode.range.byte = 0x32 ∧
  ResultCode.overflow.byte = 0x40 ∧ ResultCode.aborted.byte = 0x7F ∧
  (∀ d e : ResultCode, d.byte = e.byte → d = e) ∧
  (∀ e : ResultCode, e.classNibble = 1 ↔
    e ∈ [ResultCode.fmtTrunc, .fmtPad, .fmtNoCode, .fmtTrail, .fmtEmpty, .fmtPrefix, .fmtDup, .fmtLong]) ∧
  (∀ e : ResultCode, e.classNibble = 2 ↔ e ∈ [ResultCode.encNoCode, .encChar]) ∧
  (∀ e : ResultCode, e.classNibble = 3 ↔ e ∈ [ResultCode.seq, .illegal, .range]) ∧
  (∀ e : ResultCode, e.classNibble = 4 ↔ e = .overflow) ∧
  (∀ r : Response, r.word.extractLsb' 32 8 = r.rc.byte ∧ r.word.extractLsb' 0 32 = r.data)

/-- Rule R236: a command word that faults changes nothing but `FAULT`, `ERR`, `ERRCMD` and `ERRINFO`, and its response
carries the code and the information value. -/
def Obligations.FaultEntryIsPrecise : Prop :=
  ∀ (s t : State) (w : CmdWord) (es : List HostEvent), s.pending = .command w :: es → s.fault = false →
    step s = .next t → t.fault = true →
    ∃ e info, e ≠ .ok ∧ e ≠ .aborted ∧ t = State.afterFault { s with pending := es } (w.extractLsb' 32 16) e info

/-- The faults of each command (rule R225). -/
def Obligations.FaultsOfEachCommand : Prop :=
  ∀ (i : Instr) (s t : State), s.fault = false → exec i s = .next t → t.fault = true → t.err ∈ faultsOf i.opcode

/-- Rules R238 and R239: from `FAULT = 1` a reset and a `CLR` end in the reset state, whose `FAULT` is 0, and every other
step leaves the whole block as it is, the registers of the first fault and `FAULT = 1` among it. `CLR` and `CSRR` answer
`OK` in every state. The event list and the response list are the model's (log 1, log 2). -/
def Obligations.FirstFaultIsLatched : Prop :=
  State.reset.fault = false ∧
  (∀ (s : State) (es : List HostEvent), s.fault = true → s.pending = .reset :: es →
    step s = .next { State.reset with pending := es, responses := s.responses }) ∧
  (∀ (s : State) (w : CmdWord) (es : List HostEvent), s.fault = true → s.pending = .command w :: es →
    decode w = .ok .clr →
    step s = .next { State.reset with pending := es, responses := s.responses ++ [{ rc := .ok, data := 0 }] }) ∧
  (∀ s : State, s.fault = true → (∀ es, s.pending ≠ .reset :: es) →
    (∀ w es, s.pending = .command w :: es → decode w ≠ .ok .clr) →
    ∃ rs, step s = .next { s with pending := s.pending.tail, responses := rs }) ∧
  (∀ (i : Instr) (s : State), i.opcode = .clr ∨ i.opcode = .csrr →
    ∃ t d, exec i s = .next t ∧ t.responses = s.responses ++ [{ rc := .ok, data := d }])

/-- Rules R226 and R255: which commands a mode refuses with `E_SEQ`, and how the three mode flags move; all eight
combinations are reachable. -/
def Obligations.ModeTable : Prop :=
  (∀ (i : Instr) (s : State), s.fault = false →
    (modeNeeds i.opcode s.modes = false → exec i s = .next (s.afterFault i.head .seq s.status)) ∧
    (∀ t, exec i s = .next t → t.fault = false →
      modeNeeds i.opcode s.modes = true ∧ t.modes = modesAfter i.opcode s.modes) ∧
    (∀ t, exec i s = .next t → t.fault = true →
      t.modes = s.modes ∧ (t.err = .seq → modeNeeds i.opcode s.modes = false))) ∧
  (∀ m : Modes, ∃ cs t, execAll cs State.reset = .next t ∧ t.fault = false ∧ t.modes = m)

/-- Rule R64: the read commands have no side effect when they complete without fault, and repeating one returns the same
response. -/
def Obligations.ReadCommandsHaveNoEffect : Prop :=
  ∀ (i : Instr) (s t : State) (d : Count),
    i.opcode ∈ [Opcode.nop, .csrr, .fget, .nwgt, .nlnk, .clen, .cbit] → exec i s = .next t →
    t.responses = s.responses ++ [{ rc := .ok, data := d }] →
    t = s.afterOk d ∧ exec i t = .next (t.afterOk d)

/-- While a decode is open `DCNT + DREM` is the operand of the last `DBEGIN` (rule R40): `DBEGIN` makes it so, and no
command that leaves the decode open changes the sum. The premise on the sum is part of the stated invariant. -/
def Obligations.DecodedAndRemainingAddUp : Prop :=
  (∀ (n : Count) (s t : State), exec (.dbegin n) s = .next t → t.fault = false →
    t.dact = true ∧ t.dcnt.toNat + t.drem.toNat = n.toNat) ∧
  (∀ (i : Instr) (s t : State), s.dact = true → s.dcnt.toNat + s.drem.toNat < 2 ^ 32 → exec i s = .next t →
    t.dact = true → t.dcnt.toNat + t.drem.toNat = s.dcnt.toNat + s.drem.toNat)

/-- How much one command appends to a stream (rules R62, R272), from a state of the stated invariant. -/
def Obligations.EmissionBounds : Prop :=
  ∀ (s t : State), s.acc.length ≤ 7 → (∀ b, (s.codeAt b).length ≤ 255) →
    (∀ sym, exec (.pack sym) s = .next t → ∃ bytes, t.out = s.out ++ bytes ∧ bytes.length ≤ 32) ∧
    (∀ ch, exec (.pchr ch) s = .next t → ∃ bytes, t.out = s.out ++ bytes ∧ bytes.length ≤ 1) ∧
    (exec .pflush s = .next t → ∃ bytes, t.out = s.out ++ bytes ∧ bytes.length ≤ 1) ∧
    (∀ v, exec (.dbyte v) s = .next t → ∃ syms, t.symout = s.symout ++ syms ∧ syms.length ≤ 8)

/-! ## Invariants -/

/-- The reset state meets the invariant of `Safety.lean`: rules R22, R23, R26, R31, R37, R40, R46 to R48 and R200. -/
def Obligations.InvAtReset : Prop :=
  Inv State.reset

/-- Every step keeps the invariant: the tree of rule R26, the prefix-free table of rules R22, R23 and R200, the packer
of rules R37 and R46, the decoder of rules R40 and R47, the load registers of rule R48, the fault registers of rule
R31. -/
def Obligations.StepKeepsInv : Prop :=
  ∀ s t : State, Inv s → step s = .next t → Inv t

/-- From a state of the invariant a step always answers a next state: no command word and no reset ever stops the block
(file 93: every word in every state has exactly one outcome). -/
def Obligations.StepNeverStops : Prop :=
  ∀ s : State, Inv s → ∃ t, step s = .next t
end

