-- ==== Sys2Proof/Laws/Cells.lean ====
section
/-! SUPPORT. The laws of table files: a read after a write, that a write keeps the canonical form, and that two files
in canonical form with the same entries are equal (log 12). -/

namespace Sys2Proof.Machine

variable {n : Nat} {α : Type}

theorem Cells.read_cons (d : α) (e : BitVec n × α) (c : Cells n α) (i : BitVec n) :
    Cells.read d (e :: c) i = if e.1 = i then e.2 else Cells.read d c i := rfl

@[simp] theorem Cells.read_nil (d : α) (i : BitVec n) : Cells.read d [] i = d := rfl

/-- What is read after an entry is put in place, where no entry had its index. -/
theorem Cells.read_place (d : α) (c : Cells n α) (i j : BitVec n) (v : α) (hc : ∀ e ∈ c, e.1 ≠ i) :
    Cells.read d (Cells.place c i v) j = if j = i then v else Cells.read d c j := by
  induction c with
  | nil => simp [Cells.place, Cells.read, eq_comm]
  | cons e c ih =>
    obtain ⟨k, x⟩ := e
    have hk : k ≠ i := hc (k, x) (by simp)
    have ih := ih fun e he => hc e (by simp [he])
    by_cases hlt : i < k
    · simp [Cells.place, hlt, Cells.read_cons, eq_comm]
    · simp only [Cells.place, hlt, if_false, Cells.read_cons, ih]
      by_cases hj : j = i
      · subst hj; simp [hk]
      · simp [hj]

/-- Entries of other indices do not matter to a read. -/
theorem Cells.read_filter (d : α) (c : Cells n α) (i j : BitVec n) :
    Cells.read d (c.filter fun e => e.1 != i) j = if j = i then d else Cells.read d c j := by
  induction c with
  | nil => simp
  | cons e c ih =>
    obtain ⟨k, x⟩ := e
    by_cases hk : k = i
    · subst hk
      simp only [List.filter_cons, bne_self_eq_false, Bool.false_eq_true, if_false, ih, Cells.read_cons]
      by_cases hj : j = k
      · simp [hj]
      · simp [hj, Ne.symm hj]
    · simp only [List.filter_cons, bne_iff_ne, ne_eq, hk, not_false_eq_true, if_true, Cells.read_cons, ih]
      by_cases hj : j = i
      · subst hj; simp [hk]
      · simp [hj]

/-- A read after a write. -/
theorem Cells.read_write [DecidableEq α] (d : α) (c : Cells n α) (i j : BitVec n) (v : α) :
    Cells.read d (Cells.write d c i v) j = if j = i then v else Cells.read d c j := by
  unfold Cells.write
  by_cases hv : v = d
  · simp [hv, Cells.read_filter]
  · simp only [hv, if_false]
    rw [Cells.read_place _ _ _ _ _ (by simp), Cells.read_filter]
    by_cases hj : j = i <;> simp [hj]

theorem Cells.mem_place (c : Cells n α) (i : BitVec n) (v : α) (e : BitVec n × α) :
    e ∈ Cells.place c i v ↔ e = (i, v) ∨ e ∈ c := by
  induction c with
  | nil => simp [Cells.place]
  | cons f c ih =>
    by_cases hlt : i < f.1
    · simp [Cells.place, hlt]
    · simp only [Cells.place, hlt, if_false, List.mem_cons, ih]; tauto

/-- The canonical form as a statement about the list. -/
theorem Cells.wf_iff [DecidableEq α] (d : α) (c : Cells n α) :
    Cells.wf d c = true ↔ c.Pairwise (fun e f => e.1 < f.1) ∧ ∀ e ∈ c, e.2 ≠ d := by
  induction c with
  | nil => simp [Cells.wf]
  | cons e c ih =>
    obtain ⟨k, x⟩ := e
    simp only [Cells.wf, Bool.and_eq_true, bne_iff_ne, List.all_eq_true, decide_eq_true_eq, ih, List.pairwise_cons,
      List.forall_mem_cons]
    tauto

theorem Cells.place_sorted (c : Cells n α) (i : BitVec n) (v : α) (hs : c.Pairwise fun e f => e.1 < f.1)
    (hc : ∀ e ∈ c, e.1 ≠ i) : (Cells.place c i v).Pairwise fun e f => e.1 < f.1 := by
  induction c with
  | nil => simp [Cells.place]
  | cons e c ih =>
    have hse := List.pairwise_cons.mp hs
    have hne : e.1 ≠ i := hc e (by simp)
    by_cases hlt : i < e.1
    · simp only [Cells.place, hlt, if_true, List.pairwise_cons, List.mem_cons, forall_eq_or_imp]
      exact ⟨⟨trivial, fun f hf => BitVec.lt_trans hlt (hse.1 f hf)⟩, hse.1, hse.2⟩
    · simp only [Cells.place, hlt, if_false, List.pairwise_cons]
      refine ⟨fun f hf => ?_, ih hse.2 fun f hf => hc f (by simp [hf])⟩
      rcases (Cells.mem_place c i v f).mp hf with rfl | hf
      · bv_omega
      · exact hse.1 f hf

/-- A write keeps the canonical form. -/
theorem Cells.write_wf [DecidableEq α] (d : α) (c : Cells n α) (i : BitVec n) (v : α) (h : Cells.wf d c = true) :
    Cells.wf d (Cells.write d c i v) = true := by
  rw [Cells.wf_iff] at h ⊢
  have hs := h.1.filter (fun e => e.1 != i)
  unfold Cells.write
  by_cases hv : v = d
  · simp only [hv, if_true]
    exact ⟨hs, fun e he => h.2 e (List.mem_of_mem_filter he)⟩
  · simp only [hv, if_false]
    refine ⟨Cells.place_sorted _ _ _ hs (by simp), fun e he => ?_⟩
    rcases (Cells.mem_place _ _ _ _).mp he with rfl | he
    · exact hv
    · exact h.2 e (List.mem_of_mem_filter he)

/-- An index below every listed one reads as the default. -/
theorem Cells.read_of_lt (d : α) (c : Cells n α) (i : BitVec n) (h : ∀ e ∈ c, i < e.1) : Cells.read d c i = d := by
  induction c with
  | nil => rfl
  | cons e c ih =>
    have he := h e (by simp)
    rw [Cells.read_cons, if_neg (by bv_omega), ih fun f hf => h f (by simp [hf])]

/-- Two files in canonical form with the same entries are equal. -/
theorem Cells.ext [DecidableEq α] (d : α) (c c' : Cells n α) (h : Cells.wf d c = true) (h' : Cells.wf d c' = true)
    (hr : ∀ i, Cells.read d c i = Cells.read d c' i) : c = c' := by
  rw [Cells.wf_iff] at h h'
  induction c generalizing c' with
  | nil =>
    cases c' with
    | nil => rfl
    | cons e' c' => exact absurd (by simpa [Cells.read_cons] using (hr e'.1).symm) (h'.2 e' (by simp))
  | cons e c ih =>
    cases c' with
    | nil => exact absurd (by simpa [Cells.read_cons] using hr e.1) (h.2 e (by simp))
    | cons e' c' =>
      have hs := List.pairwise_cons.mp h.1
      have hs' := List.pairwise_cons.mp h'.1
      have hk : e.1 = e'.1 := by
        rcases lt_trichotomy e.1.toNat e'.1.toNat with hlt | heq | hlt
        · have := hr e.1
          rw [Cells.read_cons, if_pos rfl, Cells.read_of_lt d (e' :: c')] at this
          · exact absurd this (h.2 e (by simp))
          · intro f hf
            rcases List.mem_cons.mp hf with rfl | hf
            · exact hlt
            · exact BitVec.lt_trans hlt (hs'.1 f hf)
        · exact BitVec.eq_of_toNat_eq heq
        · have := hr e'.1
          rw [Cells.read_cons d e', if_pos rfl, Cells.read_of_lt d (e :: c)] at this
          · exact absurd this.symm (h'.2 e' (by simp))
          · intro f hf
            rcases List.mem_cons.mp hf with rfl | hf
            · exact hlt
            · exact BitVec.lt_trans hlt (hs.1 f hf)
      have hv : e.2 = e'.2 := by simpa [Cells.read_cons, hk] using hr e.1
      have hrest : ∀ i, Cells.read d c i = Cells.read d c' i := by
        intro i
        by_cases hi : e.1 = i
        · rw [Cells.read_of_lt d c i (by rw [← hi]; exact hs.1), Cells.read_of_lt d c' i (by rw [← hi, hk]; exact hs'.1)]
        · simpa [Cells.read_cons, hi, ← hk] using hr i
      rw [ih c' ⟨hs.2, fun f hf => h.2 f (by simp [hf])⟩ ⟨hs'.2, fun f hf => h'.2 f (by simp [hf])⟩ hrest,
        Prod.ext hk hv]

/-! ## The three files -/

@[simp] theorem readFreq_writeFreq (f : Cells 8 Count) (b b' : Byte) (v : Count) :
    readFreq (writeFreq f b v) b' = if b' = b then v else readFreq f b' :=
  Cells.read_write 0 f b b' v

@[simp] theorem readCode_writeCode (c : Cells 8 Bits) (b b' : Byte) (s : Bits) :
    readCode (writeCode c b s) b' = if b' = b then s else readCode c b' :=
  Cells.read_write [] c b b' s

@[simp] theorem readCode_nil (b : Byte) : readCode [] b = [] := rfl

@[simp] theorem readFreq_nil (b : Byte) : readFreq [] b = 0 := rfl

@[simp] theorem readNode_nil (h : Handle) : readNode [] h = .invalid := by simp [readNode]

@[simp] theorem readNode_none (a : Cells 9 Node) : readNode a Config.none = .invalid := by simp [readNode]

/-- A node is read back where it was written, unless it was written to `NONE`. -/
theorem readNode_writeNode (a : Cells 9 Node) (h h' : Handle) (x : Node) (hh : h ≠ Config.none) :
    readNode (writeNode a h x) h' = if h' = h then x else readNode a h' := by
  unfold readNode writeNode
  by_cases h1 : h' = Config.none
  · subst h1; simp [Ne.symm hh]
  · simp [hh, h1, Cells.read_write]

theorem writeFreq_wf (f : Cells 8 Count) (b : Byte) (v : Count) (h : Cells.wf 0 f = true) :
    Cells.wf 0 (writeFreq f b v) = true :=
  Cells.write_wf 0 f b v h

theorem writeCode_wf (c : Cells 8 Bits) (b : Byte) (s : Bits) (h : Cells.wf [] c = true) :
    Cells.wf [] (writeCode c b s) = true :=
  Cells.write_wf [] c b s h

theorem writeNode_wf (a : Cells 9 Node) (h : Handle) (x : Node) (hw : Cells.wf Node.invalid a = true) :
    Cells.wf Node.invalid (writeNode a h x) = true := by
  unfold writeNode
  split
  · exact hw
  · exact Cells.write_wf _ _ _ _ hw

end Sys2Proof.Machine
end

