-- ==== Sys2Proof/Laws/State.lean ====
section
/-! SUPPORT. One lemma per field per named update of the state, each true by rfl: a proof reads a field of an updated
state without unfolding the update. -/

namespace Sys2Proof.Machine

variable (s : State)

/-! ## State.setFreq -/

@[simp] theorem State.setFreq_freq (b : Byte) (v : Count) : (s.setFreq b v).freq = writeFreq s.freq b v := rfl
@[simp] theorem State.setFreq_code (b : Byte) (v : Count) : (s.setFreq b v).code = s.code := rfl
@[simp] theorem State.setFreq_nsym (b : Byte) (v : Count) : (s.setFreq b v).nsym = s.nsym := rfl
@[simp] theorem State.setFreq_node (b : Byte) (v : Count) : (s.setFreq b v).node = s.node := rfl
@[simp] theorem State.setFreq_root (b : Byte) (v : Count) : (s.setFreq b v).root = s.root := rfl
@[simp] theorem State.setFreq_nnode (b : Byte) (v : Count) : (s.setFreq b v).nnode = s.nnode := rfl
@[simp] theorem State.setFreq_fault (b : Byte) (v : Count) : (s.setFreq b v).fault = s.fault := rfl
@[simp] theorem State.setFreq_pact (b : Byte) (v : Count) : (s.setFreq b v).pact = s.pact := rfl
@[simp] theorem State.setFreq_dact (b : Byte) (v : Count) : (s.setFreq b v).dact = s.dact := rfl
@[simp] theorem State.setFreq_lact (b : Byte) (v : Count) : (s.setFreq b v).lact = s.lact := rfl
@[simp] theorem State.setFreq_err (b : Byte) (v : Count) : (s.setFreq b v).err = s.err := rfl
@[simp] theorem State.setFreq_errcmd (b : Byte) (v : Count) : (s.setFreq b v).errcmd = s.errcmd := rfl
@[simp] theorem State.setFreq_errinfo (b : Byte) (v : Count) : (s.setFreq b v).errinfo = s.errinfo := rfl
@[simp] theorem State.setFreq_acc (b : Byte) (v : Count) : (s.setFreq b v).acc = s.acc := rfl
@[simp] theorem State.setFreq_nacc (b : Byte) (v : Count) : (s.setFreq b v).nacc = s.nacc := rfl
@[simp] theorem State.setFreq_outcnt (b : Byte) (v : Count) : (s.setFreq b v).outcnt = s.outcnt := rfl
@[simp] theorem State.setFreq_drem (b : Byte) (v : Count) : (s.setFreq b v).drem = s.drem := rfl
@[simp] theorem State.setFreq_dcnt (b : Byte) (v : Count) : (s.setFreq b v).dcnt = s.dcnt := rfl
@[simp] theorem State.setFreq_dincnt (b : Byte) (v : Count) : (s.setFreq b v).dincnt = s.dincnt := rfl
@[simp] theorem State.setFreq_path (b : Byte) (v : Count) : (s.setFreq b v).path = s.path := rfl
@[simp] theorem State.setFreq_ldsym (b : Byte) (v : Count) : (s.setFreq b v).ldsym = s.ldsym := rfl
@[simp] theorem State.setFreq_ldbuf (b : Byte) (v : Count) : (s.setFreq b v).ldbuf = s.ldbuf := rfl
@[simp] theorem State.setFreq_out (b : Byte) (v : Count) : (s.setFreq b v).out = s.out := rfl
@[simp] theorem State.setFreq_symout (b : Byte) (v : Count) : (s.setFreq b v).symout = s.symout := rfl
@[simp] theorem State.setFreq_pending (b : Byte) (v : Count) : (s.setFreq b v).pending = s.pending := rfl
@[simp] theorem State.setFreq_responses (b : Byte) (v : Count) : (s.setFreq b v).responses = s.responses := rfl

/-! ## State.setTable -/

@[simp] theorem State.setTable_freq (c : Cells 8 Bits) (n : BitVec 9) : (s.setTable c n).freq = s.freq := rfl
@[simp] theorem State.setTable_code (c : Cells 8 Bits) (n : BitVec 9) : (s.setTable c n).code = c := rfl
@[simp] theorem State.setTable_nsym (c : Cells 8 Bits) (n : BitVec 9) : (s.setTable c n).nsym = n := rfl
@[simp] theorem State.setTable_node (c : Cells 8 Bits) (n : BitVec 9) : (s.setTable c n).node = s.node := rfl
@[simp] theorem State.setTable_root (c : Cells 8 Bits) (n : BitVec 9) : (s.setTable c n).root = s.root := rfl
@[simp] theorem State.setTable_nnode (c : Cells 8 Bits) (n : BitVec 9) : (s.setTable c n).nnode = s.nnode := rfl
@[simp] theorem State.setTable_fault (c : Cells 8 Bits) (n : BitVec 9) : (s.setTable c n).fault = s.fault := rfl
@[simp] theorem State.setTable_pact (c : Cells 8 Bits) (n : BitVec 9) : (s.setTable c n).pact = s.pact := rfl
@[simp] theorem State.setTable_dact (c : Cells 8 Bits) (n : BitVec 9) : (s.setTable c n).dact = s.dact := rfl
@[simp] theorem State.setTable_lact (c : Cells 8 Bits) (n : BitVec 9) : (s.setTable c n).lact = s.lact := rfl
@[simp] theorem State.setTable_err (c : Cells 8 Bits) (n : BitVec 9) : (s.setTable c n).err = s.err := rfl
@[simp] theorem State.setTable_errcmd (c : Cells 8 Bits) (n : BitVec 9) : (s.setTable c n).errcmd = s.errcmd := rfl
@[simp] theorem State.setTable_errinfo (c : Cells 8 Bits) (n : BitVec 9) : (s.setTable c n).errinfo = s.errinfo := rfl
@[simp] theorem State.setTable_acc (c : Cells 8 Bits) (n : BitVec 9) : (s.setTable c n).acc = s.acc := rfl
@[simp] theorem State.setTable_nacc (c : Cells 8 Bits) (n : BitVec 9) : (s.setTable c n).nacc = s.nacc := rfl
@[simp] theorem State.setTable_outcnt (c : Cells 8 Bits) (n : BitVec 9) : (s.setTable c n).outcnt = s.outcnt := rfl
@[simp] theorem State.setTable_drem (c : Cells 8 Bits) (n : BitVec 9) : (s.setTable c n).drem = s.drem := rfl
@[simp] theorem State.setTable_dcnt (c : Cells 8 Bits) (n : BitVec 9) : (s.setTable c n).dcnt = s.dcnt := rfl
@[simp] theorem State.setTable_dincnt (c : Cells 8 Bits) (n : BitVec 9) : (s.setTable c n).dincnt = s.dincnt := rfl
@[simp] theorem State.setTable_path (c : Cells 8 Bits) (n : BitVec 9) : (s.setTable c n).path = s.path := rfl
@[simp] theorem State.setTable_ldsym (c : Cells 8 Bits) (n : BitVec 9) : (s.setTable c n).ldsym = s.ldsym := rfl
@[simp] theorem State.setTable_ldbuf (c : Cells 8 Bits) (n : BitVec 9) : (s.setTable c n).ldbuf = s.ldbuf := rfl
@[simp] theorem State.setTable_out (c : Cells 8 Bits) (n : BitVec 9) : (s.setTable c n).out = s.out := rfl
@[simp] theorem State.setTable_symout (c : Cells 8 Bits) (n : BitVec 9) : (s.setTable c n).symout = s.symout := rfl
@[simp] theorem State.setTable_pending (c : Cells 8 Bits) (n : BitVec 9) : (s.setTable c n).pending = s.pending := rfl
@[simp] theorem State.setTable_responses (c : Cells 8 Bits) (n : BitVec 9) : (s.setTable c n).responses = s.responses := rfl

/-! ## State.setTree -/

@[simp] theorem State.setTree_freq (a : Cells 9 Node) (r : Handle) (n : BitVec 9) : (s.setTree a r n).freq = s.freq := rfl
@[simp] theorem State.setTree_code (a : Cells 9 Node) (r : Handle) (n : BitVec 9) : (s.setTree a r n).code = s.code := rfl
@[simp] theorem State.setTree_nsym (a : Cells 9 Node) (r : Handle) (n : BitVec 9) : (s.setTree a r n).nsym = s.nsym := rfl
@[simp] theorem State.setTree_node (a : Cells 9 Node) (r : Handle) (n : BitVec 9) : (s.setTree a r n).node = a := rfl
@[simp] theorem State.setTree_root (a : Cells 9 Node) (r : Handle) (n : BitVec 9) : (s.setTree a r n).root = r := rfl
@[simp] theorem State.setTree_nnode (a : Cells 9 Node) (r : Handle) (n : BitVec 9) : (s.setTree a r n).nnode = n := rfl
@[simp] theorem State.setTree_fault (a : Cells 9 Node) (r : Handle) (n : BitVec 9) : (s.setTree a r n).fault = s.fault := rfl
@[simp] theorem State.setTree_pact (a : Cells 9 Node) (r : Handle) (n : BitVec 9) : (s.setTree a r n).pact = s.pact := rfl
@[simp] theorem State.setTree_dact (a : Cells 9 Node) (r : Handle) (n : BitVec 9) : (s.setTree a r n).dact = s.dact := rfl
@[simp] theorem State.setTree_lact (a : Cells 9 Node) (r : Handle) (n : BitVec 9) : (s.setTree a r n).lact = s.lact := rfl
@[simp] theorem State.setTree_err (a : Cells 9 Node) (r : Handle) (n : BitVec 9) : (s.setTree a r n).err = s.err := rfl
@[simp] theorem State.setTree_errcmd (a : Cells 9 Node) (r : Handle) (n : BitVec 9) : (s.setTree a r n).errcmd = s.errcmd := rfl
@[simp] theorem State.setTree_errinfo (a : Cells 9 Node) (r : Handle) (n : BitVec 9) : (s.setTree a r n).errinfo = s.errinfo := rfl
@[simp] theorem State.setTree_acc (a : Cells 9 Node) (r : Handle) (n : BitVec 9) : (s.setTree a r n).acc = s.acc := rfl
@[simp] theorem State.setTree_nacc (a : Cells 9 Node) (r : Handle) (n : BitVec 9) : (s.setTree a r n).nacc = s.nacc := rfl
@[simp] theorem State.setTree_outcnt (a : Cells 9 Node) (r : Handle) (n : BitVec 9) : (s.setTree a r n).outcnt = s.outcnt := rfl
@[simp] theorem State.setTree_drem (a : Cells 9 Node) (r : Handle) (n : BitVec 9) : (s.setTree a r n).drem = s.drem := rfl
@[simp] theorem State.setTree_dcnt (a : Cells 9 Node) (r : Handle) (n : BitVec 9) : (s.setTree a r n).dcnt = s.dcnt := rfl
@[simp] theorem State.setTree_dincnt (a : Cells 9 Node) (r : Handle) (n : BitVec 9) : (s.setTree a r n).dincnt = s.dincnt := rfl
@[simp] theorem State.setTree_path (a : Cells 9 Node) (r : Handle) (n : BitVec 9) : (s.setTree a r n).path = s.path := rfl
@[simp] theorem State.setTree_ldsym (a : Cells 9 Node) (r : Handle) (n : BitVec 9) : (s.setTree a r n).ldsym = s.ldsym := rfl
@[simp] theorem State.setTree_ldbuf (a : Cells 9 Node) (r : Handle) (n : BitVec 9) : (s.setTree a r n).ldbuf = s.ldbuf := rfl
@[simp] theorem State.setTree_out (a : Cells 9 Node) (r : Handle) (n : BitVec 9) : (s.setTree a r n).out = s.out := rfl
@[simp] theorem State.setTree_symout (a : Cells 9 Node) (r : Handle) (n : BitVec 9) : (s.setTree a r n).symout = s.symout := rfl
@[simp] theorem State.setTree_pending (a : Cells 9 Node) (r : Handle) (n : BitVec 9) : (s.setTree a r n).pending = s.pending := rfl
@[simp] theorem State.setTree_responses (a : Cells 9 Node) (r : Handle) (n : BitVec 9) : (s.setTree a r n).responses = s.responses := rfl

/-! ## State.setPact -/

@[simp] theorem State.setPact_freq (b : Bool) : (s.setPact b).freq = s.freq := rfl
@[simp] theorem State.setPact_code (b : Bool) : (s.setPact b).code = s.code := rfl
@[simp] theorem State.setPact_nsym (b : Bool) : (s.setPact b).nsym = s.nsym := rfl
@[simp] theorem State.setPact_node (b : Bool) : (s.setPact b).node = s.node := rfl
@[simp] theorem State.setPact_root (b : Bool) : (s.setPact b).root = s.root := rfl
@[simp] theorem State.setPact_nnode (b : Bool) : (s.setPact b).nnode = s.nnode := rfl
@[simp] theorem State.setPact_fault (b : Bool) : (s.setPact b).fault = s.fault := rfl
@[simp] theorem State.setPact_pact (b : Bool) : (s.setPact b).pact = b := rfl
@[simp] theorem State.setPact_dact (b : Bool) : (s.setPact b).dact = s.dact := rfl
@[simp] theorem State.setPact_lact (b : Bool) : (s.setPact b).lact = s.lact := rfl
@[simp] theorem State.setPact_err (b : Bool) : (s.setPact b).err = s.err := rfl
@[simp] theorem State.setPact_errcmd (b : Bool) : (s.setPact b).errcmd = s.errcmd := rfl
@[simp] theorem State.setPact_errinfo (b : Bool) : (s.setPact b).errinfo = s.errinfo := rfl
@[simp] theorem State.setPact_acc (b : Bool) : (s.setPact b).acc = s.acc := rfl
@[simp] theorem State.setPact_nacc (b : Bool) : (s.setPact b).nacc = s.nacc := rfl
@[simp] theorem State.setPact_outcnt (b : Bool) : (s.setPact b).outcnt = s.outcnt := rfl
@[simp] theorem State.setPact_drem (b : Bool) : (s.setPact b).drem = s.drem := rfl
@[simp] theorem State.setPact_dcnt (b : Bool) : (s.setPact b).dcnt = s.dcnt := rfl
@[simp] theorem State.setPact_dincnt (b : Bool) : (s.setPact b).dincnt = s.dincnt := rfl
@[simp] theorem State.setPact_path (b : Bool) : (s.setPact b).path = s.path := rfl
@[simp] theorem State.setPact_ldsym (b : Bool) : (s.setPact b).ldsym = s.ldsym := rfl
@[simp] theorem State.setPact_ldbuf (b : Bool) : (s.setPact b).ldbuf = s.ldbuf := rfl
@[simp] theorem State.setPact_out (b : Bool) : (s.setPact b).out = s.out := rfl
@[simp] theorem State.setPact_symout (b : Bool) : (s.setPact b).symout = s.symout := rfl
@[simp] theorem State.setPact_pending (b : Bool) : (s.setPact b).pending = s.pending := rfl
@[simp] theorem State.setPact_responses (b : Bool) : (s.setPact b).responses = s.responses := rfl

/-! ## State.setDact -/

@[simp] theorem State.setDact_freq (b : Bool) : (s.setDact b).freq = s.freq := rfl
@[simp] theorem State.setDact_code (b : Bool) : (s.setDact b).code = s.code := rfl
@[simp] theorem State.setDact_nsym (b : Bool) : (s.setDact b).nsym = s.nsym := rfl
@[simp] theorem State.setDact_node (b : Bool) : (s.setDact b).node = s.node := rfl
@[simp] theorem State.setDact_root (b : Bool) : (s.setDact b).root = s.root := rfl
@[simp] theorem State.setDact_nnode (b : Bool) : (s.setDact b).nnode = s.nnode := rfl
@[simp] theorem State.setDact_fault (b : Bool) : (s.setDact b).fault = s.fault := rfl
@[simp] theorem State.setDact_pact (b : Bool) : (s.setDact b).pact = s.pact := rfl
@[simp] theorem State.setDact_dact (b : Bool) : (s.setDact b).dact = b := rfl
@[simp] theorem State.setDact_lact (b : Bool) : (s.setDact b).lact = s.lact := rfl
@[simp] theorem State.setDact_err (b : Bool) : (s.setDact b).err = s.err := rfl
@[simp] theorem State.setDact_errcmd (b : Bool) : (s.setDact b).errcmd = s.errcmd := rfl
@[simp] theorem State.setDact_errinfo (b : Bool) : (s.setDact b).errinfo = s.errinfo := rfl
@[simp] theorem State.setDact_acc (b : Bool) : (s.setDact b).acc = s.acc := rfl
@[simp] theorem State.setDact_nacc (b : Bool) : (s.setDact b).nacc = s.nacc := rfl
@[simp] theorem State.setDact_outcnt (b : Bool) : (s.setDact b).outcnt = s.outcnt := rfl
@[simp] theorem State.setDact_drem (b : Bool) : (s.setDact b).drem = s.drem := rfl
@[simp] theorem State.setDact_dcnt (b : Bool) : (s.setDact b).dcnt = s.dcnt := rfl
@[simp] theorem State.setDact_dincnt (b : Bool) : (s.setDact b).dincnt = s.dincnt := rfl
@[simp] theorem State.setDact_path (b : Bool) : (s.setDact b).path = s.path := rfl
@[simp] theorem State.setDact_ldsym (b : Bool) : (s.setDact b).ldsym = s.ldsym := rfl
@[simp] theorem State.setDact_ldbuf (b : Bool) : (s.setDact b).ldbuf = s.ldbuf := rfl
@[simp] theorem State.setDact_out (b : Bool) : (s.setDact b).out = s.out := rfl
@[simp] theorem State.setDact_symout (b : Bool) : (s.setDact b).symout = s.symout := rfl
@[simp] theorem State.setDact_pending (b : Bool) : (s.setDact b).pending = s.pending := rfl
@[simp] theorem State.setDact_responses (b : Bool) : (s.setDact b).responses = s.responses := rfl

/-! ## State.setLact -/

@[simp] theorem State.setLact_freq (b : Bool) : (s.setLact b).freq = s.freq := rfl
@[simp] theorem State.setLact_code (b : Bool) : (s.setLact b).code = s.code := rfl
@[simp] theorem State.setLact_nsym (b : Bool) : (s.setLact b).nsym = s.nsym := rfl
@[simp] theorem State.setLact_node (b : Bool) : (s.setLact b).node = s.node := rfl
@[simp] theorem State.setLact_root (b : Bool) : (s.setLact b).root = s.root := rfl
@[simp] theorem State.setLact_nnode (b : Bool) : (s.setLact b).nnode = s.nnode := rfl
@[simp] theorem State.setLact_fault (b : Bool) : (s.setLact b).fault = s.fault := rfl
@[simp] theorem State.setLact_pact (b : Bool) : (s.setLact b).pact = s.pact := rfl
@[simp] theorem State.setLact_dact (b : Bool) : (s.setLact b).dact = s.dact := rfl
@[simp] theorem State.setLact_lact (b : Bool) : (s.setLact b).lact = b := rfl
@[simp] theorem State.setLact_err (b : Bool) : (s.setLact b).err = s.err := rfl
@[simp] theorem State.setLact_errcmd (b : Bool) : (s.setLact b).errcmd = s.errcmd := rfl
@[simp] theorem State.setLact_errinfo (b : Bool) : (s.setLact b).errinfo = s.errinfo := rfl
@[simp] theorem State.setLact_acc (b : Bool) : (s.setLact b).acc = s.acc := rfl
@[simp] theorem State.setLact_nacc (b : Bool) : (s.setLact b).nacc = s.nacc := rfl
@[simp] theorem State.setLact_outcnt (b : Bool) : (s.setLact b).outcnt = s.outcnt := rfl
@[simp] theorem State.setLact_drem (b : Bool) : (s.setLact b).drem = s.drem := rfl
@[simp] theorem State.setLact_dcnt (b : Bool) : (s.setLact b).dcnt = s.dcnt := rfl
@[simp] theorem State.setLact_dincnt (b : Bool) : (s.setLact b).dincnt = s.dincnt := rfl
@[simp] theorem State.setLact_path (b : Bool) : (s.setLact b).path = s.path := rfl
@[simp] theorem State.setLact_ldsym (b : Bool) : (s.setLact b).ldsym = s.ldsym := rfl
@[simp] theorem State.setLact_ldbuf (b : Bool) : (s.setLact b).ldbuf = s.ldbuf := rfl
@[simp] theorem State.setLact_out (b : Bool) : (s.setLact b).out = s.out := rfl
@[simp] theorem State.setLact_symout (b : Bool) : (s.setLact b).symout = s.symout := rfl
@[simp] theorem State.setLact_pending (b : Bool) : (s.setLact b).pending = s.pending := rfl
@[simp] theorem State.setLact_responses (b : Bool) : (s.setLact b).responses = s.responses := rfl

/-! ## State.setAcc -/

@[simp] theorem State.setAcc_freq (bits : Bits) : (s.setAcc bits).freq = s.freq := rfl
@[simp] theorem State.setAcc_code (bits : Bits) : (s.setAcc bits).code = s.code := rfl
@[simp] theorem State.setAcc_nsym (bits : Bits) : (s.setAcc bits).nsym = s.nsym := rfl
@[simp] theorem State.setAcc_node (bits : Bits) : (s.setAcc bits).node = s.node := rfl
@[simp] theorem State.setAcc_root (bits : Bits) : (s.setAcc bits).root = s.root := rfl
@[simp] theorem State.setAcc_nnode (bits : Bits) : (s.setAcc bits).nnode = s.nnode := rfl
@[simp] theorem State.setAcc_fault (bits : Bits) : (s.setAcc bits).fault = s.fault := rfl
@[simp] theorem State.setAcc_pact (bits : Bits) : (s.setAcc bits).pact = s.pact := rfl
@[simp] theorem State.setAcc_dact (bits : Bits) : (s.setAcc bits).dact = s.dact := rfl
@[simp] theorem State.setAcc_lact (bits : Bits) : (s.setAcc bits).lact = s.lact := rfl
@[simp] theorem State.setAcc_err (bits : Bits) : (s.setAcc bits).err = s.err := rfl
@[simp] theorem State.setAcc_errcmd (bits : Bits) : (s.setAcc bits).errcmd = s.errcmd := rfl
@[simp] theorem State.setAcc_errinfo (bits : Bits) : (s.setAcc bits).errinfo = s.errinfo := rfl
@[simp] theorem State.setAcc_acc (bits : Bits) : (s.setAcc bits).acc = bits := rfl
@[simp] theorem State.setAcc_nacc (bits : Bits) : (s.setAcc bits).nacc = BitVec.ofNat 3 bits.length := rfl
@[simp] theorem State.setAcc_outcnt (bits : Bits) : (s.setAcc bits).outcnt = s.outcnt := rfl
@[simp] theorem State.setAcc_drem (bits : Bits) : (s.setAcc bits).drem = s.drem := rfl
@[simp] theorem State.setAcc_dcnt (bits : Bits) : (s.setAcc bits).dcnt = s.dcnt := rfl
@[simp] theorem State.setAcc_dincnt (bits : Bits) : (s.setAcc bits).dincnt = s.dincnt := rfl
@[simp] theorem State.setAcc_path (bits : Bits) : (s.setAcc bits).path = s.path := rfl
@[simp] theorem State.setAcc_ldsym (bits : Bits) : (s.setAcc bits).ldsym = s.ldsym := rfl
@[simp] theorem State.setAcc_ldbuf (bits : Bits) : (s.setAcc bits).ldbuf = s.ldbuf := rfl
@[simp] theorem State.setAcc_out (bits : Bits) : (s.setAcc bits).out = s.out := rfl
@[simp] theorem State.setAcc_symout (bits : Bits) : (s.setAcc bits).symout = s.symout := rfl
@[simp] theorem State.setAcc_pending (bits : Bits) : (s.setAcc bits).pending = s.pending := rfl
@[simp] theorem State.setAcc_responses (bits : Bits) : (s.setAcc bits).responses = s.responses := rfl

/-! ## State.emitOut -/

@[simp] theorem State.emitOut_freq (bytes : List Byte) : (s.emitOut bytes).freq = s.freq := rfl
@[simp] theorem State.emitOut_code (bytes : List Byte) : (s.emitOut bytes).code = s.code := rfl
@[simp] theorem State.emitOut_nsym (bytes : List Byte) : (s.emitOut bytes).nsym = s.nsym := rfl
@[simp] theorem State.emitOut_node (bytes : List Byte) : (s.emitOut bytes).node = s.node := rfl
@[simp] theorem State.emitOut_root (bytes : List Byte) : (s.emitOut bytes).root = s.root := rfl
@[simp] theorem State.emitOut_nnode (bytes : List Byte) : (s.emitOut bytes).nnode = s.nnode := rfl
@[simp] theorem State.emitOut_fault (bytes : List Byte) : (s.emitOut bytes).fault = s.fault := rfl
@[simp] theorem State.emitOut_pact (bytes : List Byte) : (s.emitOut bytes).pact = s.pact := rfl
@[simp] theorem State.emitOut_dact (bytes : List Byte) : (s.emitOut bytes).dact = s.dact := rfl
@[simp] theorem State.emitOut_lact (bytes : List Byte) : (s.emitOut bytes).lact = s.lact := rfl
@[simp] theorem State.emitOut_err (bytes : List Byte) : (s.emitOut bytes).err = s.err := rfl
@[simp] theorem State.emitOut_errcmd (bytes : List Byte) : (s.emitOut bytes).errcmd = s.errcmd := rfl
@[simp] theorem State.emitOut_errinfo (bytes : List Byte) : (s.emitOut bytes).errinfo = s.errinfo := rfl
@[simp] theorem State.emitOut_acc (bytes : List Byte) : (s.emitOut bytes).acc = s.acc := rfl
@[simp] theorem State.emitOut_nacc (bytes : List Byte) : (s.emitOut bytes).nacc = s.nacc := rfl
@[simp] theorem State.emitOut_outcnt (bytes : List Byte) : (s.emitOut bytes).outcnt = s.outcnt + BitVec.ofNat 32 bytes.length := rfl
@[simp] theorem State.emitOut_drem (bytes : List Byte) : (s.emitOut bytes).drem = s.drem := rfl
@[simp] theorem State.emitOut_dcnt (bytes : List Byte) : (s.emitOut bytes).dcnt = s.dcnt := rfl
@[simp] theorem State.emitOut_dincnt (bytes : List Byte) : (s.emitOut bytes).dincnt = s.dincnt := rfl
@[simp] theorem State.emitOut_path (bytes : List Byte) : (s.emitOut bytes).path = s.path := rfl
@[simp] theorem State.emitOut_ldsym (bytes : List Byte) : (s.emitOut bytes).ldsym = s.ldsym := rfl
@[simp] theorem State.emitOut_ldbuf (bytes : List Byte) : (s.emitOut bytes).ldbuf = s.ldbuf := rfl
@[simp] theorem State.emitOut_out (bytes : List Byte) : (s.emitOut bytes).out = s.out ++ bytes := rfl
@[simp] theorem State.emitOut_symout (bytes : List Byte) : (s.emitOut bytes).symout = s.symout := rfl
@[simp] theorem State.emitOut_pending (bytes : List Byte) : (s.emitOut bytes).pending = s.pending := rfl
@[simp] theorem State.emitOut_responses (bytes : List Byte) : (s.emitOut bytes).responses = s.responses := rfl

/-! ## State.setDecoder -/

@[simp] theorem State.setDecoder_freq (rem cnt inc : Count) (p : Bits) : (s.setDecoder rem cnt inc p).freq = s.freq := rfl
@[simp] theorem State.setDecoder_code (rem cnt inc : Count) (p : Bits) : (s.setDecoder rem cnt inc p).code = s.code := rfl
@[simp] theorem State.setDecoder_nsym (rem cnt inc : Count) (p : Bits) : (s.setDecoder rem cnt inc p).nsym = s.nsym := rfl
@[simp] theorem State.setDecoder_node (rem cnt inc : Count) (p : Bits) : (s.setDecoder rem cnt inc p).node = s.node := rfl
@[simp] theorem State.setDecoder_root (rem cnt inc : Count) (p : Bits) : (s.setDecoder rem cnt inc p).root = s.root := rfl
@[simp] theorem State.setDecoder_nnode (rem cnt inc : Count) (p : Bits) : (s.setDecoder rem cnt inc p).nnode = s.nnode := rfl
@[simp] theorem State.setDecoder_fault (rem cnt inc : Count) (p : Bits) : (s.setDecoder rem cnt inc p).fault = s.fault := rfl
@[simp] theorem State.setDecoder_pact (rem cnt inc : Count) (p : Bits) : (s.setDecoder rem cnt inc p).pact = s.pact := rfl
@[simp] theorem State.setDecoder_dact (rem cnt inc : Count) (p : Bits) : (s.setDecoder rem cnt inc p).dact = s.dact := rfl
@[simp] theorem State.setDecoder_lact (rem cnt inc : Count) (p : Bits) : (s.setDecoder rem cnt inc p).lact = s.lact := rfl
@[simp] theorem State.setDecoder_err (rem cnt inc : Count) (p : Bits) : (s.setDecoder rem cnt inc p).err = s.err := rfl
@[simp] theorem State.setDecoder_errcmd (rem cnt inc : Count) (p : Bits) : (s.setDecoder rem cnt inc p).errcmd = s.errcmd := rfl
@[simp] theorem State.setDecoder_errinfo (rem cnt inc : Count) (p : Bits) : (s.setDecoder rem cnt inc p).errinfo = s.errinfo := rfl
@[simp] theorem State.setDecoder_acc (rem cnt inc : Count) (p : Bits) : (s.setDecoder rem cnt inc p).acc = s.acc := rfl
@[simp] theorem State.setDecoder_nacc (rem cnt inc : Count) (p : Bits) : (s.setDecoder rem cnt inc p).nacc = s.nacc := rfl
@[simp] theorem State.setDecoder_outcnt (rem cnt inc : Count) (p : Bits) : (s.setDecoder rem cnt inc p).outcnt = s.outcnt := rfl
@[simp] theorem State.setDecoder_drem (rem cnt inc : Count) (p : Bits) : (s.setDecoder rem cnt inc p).drem = rem := rfl
@[simp] theorem State.setDecoder_dcnt (rem cnt inc : Count) (p : Bits) : (s.setDecoder rem cnt inc p).dcnt = cnt := rfl
@[simp] theorem State.setDecoder_dincnt (rem cnt inc : Count) (p : Bits) : (s.setDecoder rem cnt inc p).dincnt = inc := rfl
@[simp] theorem State.setDecoder_path (rem cnt inc : Count) (p : Bits) : (s.setDecoder rem cnt inc p).path = p := rfl
@[simp] theorem State.setDecoder_ldsym (rem cnt inc : Count) (p : Bits) : (s.setDecoder rem cnt inc p).ldsym = s.ldsym := rfl
@[simp] theorem State.setDecoder_ldbuf (rem cnt inc : Count) (p : Bits) : (s.setDecoder rem cnt inc p).ldbuf = s.ldbuf := rfl
@[simp] theorem State.setDecoder_out (rem cnt inc : Count) (p : Bits) : (s.setDecoder rem cnt inc p).out = s.out := rfl
@[simp] theorem State.setDecoder_symout (rem cnt inc : Count) (p : Bits) : (s.setDecoder rem cnt inc p).symout = s.symout := rfl
@[simp] theorem State.setDecoder_pending (rem cnt inc : Count) (p : Bits) : (s.setDecoder rem cnt inc p).pending = s.pending := rfl
@[simp] theorem State.setDecoder_responses (rem cnt inc : Count) (p : Bits) : (s.setDecoder rem cnt inc p).responses = s.responses := rfl

/-! ## State.emitSym -/

@[simp] theorem State.emitSym_freq (syms : List Byte) : (s.emitSym syms).freq = s.freq := rfl
@[simp] theorem State.emitSym_code (syms : List Byte) : (s.emitSym syms).code = s.code := rfl
@[simp] theorem State.emitSym_nsym (syms : List Byte) : (s.emitSym syms).nsym = s.nsym := rfl
@[simp] theorem State.emitSym_node (syms : List Byte) : (s.emitSym syms).node = s.node := rfl
@[simp] theorem State.emitSym_root (syms : List Byte) : (s.emitSym syms).root = s.root := rfl
@[simp] theorem State.emitSym_nnode (syms : List Byte) : (s.emitSym syms).nnode = s.nnode := rfl
@[simp] theorem State.emitSym_fault (syms : List Byte) : (s.emitSym syms).fault = s.fault := rfl
@[simp] theorem State.emitSym_pact (syms : List Byte) : (s.emitSym syms).pact = s.pact := rfl
@[simp] theorem State.emitSym_dact (syms : List Byte) : (s.emitSym syms).dact = s.dact := rfl
@[simp] theorem State.emitSym_lact (syms : List Byte) : (s.emitSym syms).lact = s.lact := rfl
@[simp] theorem State.emitSym_err (syms : List Byte) : (s.emitSym syms).err = s.err := rfl
@[simp] theorem State.emitSym_errcmd (syms : List Byte) : (s.emitSym syms).errcmd = s.errcmd := rfl
@[simp] theorem State.emitSym_errinfo (syms : List Byte) : (s.emitSym syms).errinfo = s.errinfo := rfl
@[simp] theorem State.emitSym_acc (syms : List Byte) : (s.emitSym syms).acc = s.acc := rfl
@[simp] theorem State.emitSym_nacc (syms : List Byte) : (s.emitSym syms).nacc = s.nacc := rfl
@[simp] theorem State.emitSym_outcnt (syms : List Byte) : (s.emitSym syms).outcnt = s.outcnt := rfl
@[simp] theorem State.emitSym_drem (syms : List Byte) : (s.emitSym syms).drem = s.drem := rfl
@[simp] theorem State.emitSym_dcnt (syms : List Byte) : (s.emitSym syms).dcnt = s.dcnt := rfl
@[simp] theorem State.emitSym_dincnt (syms : List Byte) : (s.emitSym syms).dincnt = s.dincnt := rfl
@[simp] theorem State.emitSym_path (syms : List Byte) : (s.emitSym syms).path = s.path := rfl
@[simp] theorem State.emitSym_ldsym (syms : List Byte) : (s.emitSym syms).ldsym = s.ldsym := rfl
@[simp] theorem State.emitSym_ldbuf (syms : List Byte) : (s.emitSym syms).ldbuf = s.ldbuf := rfl
@[simp] theorem State.emitSym_out (syms : List Byte) : (s.emitSym syms).out = s.out := rfl
@[simp] theorem State.emitSym_symout (syms : List Byte) : (s.emitSym syms).symout = s.symout ++ syms := rfl
@[simp] theorem State.emitSym_pending (syms : List Byte) : (s.emitSym syms).pending = s.pending := rfl
@[simp] theorem State.emitSym_responses (syms : List Byte) : (s.emitSym syms).responses = s.responses := rfl

/-! ## State.setLoad -/

@[simp] theorem State.setLoad_freq (b : Byte) (bits : Bits) : (s.setLoad b bits).freq = s.freq := rfl
@[simp] theorem State.setLoad_code (b : Byte) (bits : Bits) : (s.setLoad b bits).code = s.code := rfl
@[simp] theorem State.setLoad_nsym (b : Byte) (bits : Bits) : (s.setLoad b bits).nsym = s.nsym := rfl
@[simp] theorem State.setLoad_node (b : Byte) (bits : Bits) : (s.setLoad b bits).node = s.node := rfl
@[simp] theorem State.setLoad_root (b : Byte) (bits : Bits) : (s.setLoad b bits).root = s.root := rfl
@[simp] theorem State.setLoad_nnode (b : Byte) (bits : Bits) : (s.setLoad b bits).nnode = s.nnode := rfl
@[simp] theorem State.setLoad_fault (b : Byte) (bits : Bits) : (s.setLoad b bits).fault = s.fault := rfl
@[simp] theorem State.setLoad_pact (b : Byte) (bits : Bits) : (s.setLoad b bits).pact = s.pact := rfl
@[simp] theorem State.setLoad_dact (b : Byte) (bits : Bits) : (s.setLoad b bits).dact = s.dact := rfl
@[simp] theorem State.setLoad_lact (b : Byte) (bits : Bits) : (s.setLoad b bits).lact = s.lact := rfl
@[simp] theorem State.setLoad_err (b : Byte) (bits : Bits) : (s.setLoad b bits).err = s.err := rfl
@[simp] theorem State.setLoad_errcmd (b : Byte) (bits : Bits) : (s.setLoad b bits).errcmd = s.errcmd := rfl
@[simp] theorem State.setLoad_errinfo (b : Byte) (bits : Bits) : (s.setLoad b bits).errinfo = s.errinfo := rfl
@[simp] theorem State.setLoad_acc (b : Byte) (bits : Bits) : (s.setLoad b bits).acc = s.acc := rfl
@[simp] theorem State.setLoad_nacc (b : Byte) (bits : Bits) : (s.setLoad b bits).nacc = s.nacc := rfl
@[simp] theorem State.setLoad_outcnt (b : Byte) (bits : Bits) : (s.setLoad b bits).outcnt = s.outcnt := rfl
@[simp] theorem State.setLoad_drem (b : Byte) (bits : Bits) : (s.setLoad b bits).drem = s.drem := rfl
@[simp] theorem State.setLoad_dcnt (b : Byte) (bits : Bits) : (s.setLoad b bits).dcnt = s.dcnt := rfl
@[simp] theorem State.setLoad_dincnt (b : Byte) (bits : Bits) : (s.setLoad b bits).dincnt = s.dincnt := rfl
@[simp] theorem State.setLoad_path (b : Byte) (bits : Bits) : (s.setLoad b bits).path = s.path := rfl
@[simp] theorem State.setLoad_ldsym (b : Byte) (bits : Bits) : (s.setLoad b bits).ldsym = b := rfl
@[simp] theorem State.setLoad_ldbuf (b : Byte) (bits : Bits) : (s.setLoad b bits).ldbuf = bits := rfl
@[simp] theorem State.setLoad_out (b : Byte) (bits : Bits) : (s.setLoad b bits).out = s.out := rfl
@[simp] theorem State.setLoad_symout (b : Byte) (bits : Bits) : (s.setLoad b bits).symout = s.symout := rfl
@[simp] theorem State.setLoad_pending (b : Byte) (bits : Bits) : (s.setLoad b bits).pending = s.pending := rfl
@[simp] theorem State.setLoad_responses (b : Byte) (bits : Bits) : (s.setLoad b bits).responses = s.responses := rfl

/-! ## State.setPending -/

@[simp] theorem State.setPending_freq (es : List HostEvent) : (s.setPending es).freq = s.freq := rfl
@[simp] theorem State.setPending_code (es : List HostEvent) : (s.setPending es).code = s.code := rfl
@[simp] theorem State.setPending_nsym (es : List HostEvent) : (s.setPending es).nsym = s.nsym := rfl
@[simp] theorem State.setPending_node (es : List HostEvent) : (s.setPending es).node = s.node := rfl
@[simp] theorem State.setPending_root (es : List HostEvent) : (s.setPending es).root = s.root := rfl
@[simp] theorem State.setPending_nnode (es : List HostEvent) : (s.setPending es).nnode = s.nnode := rfl
@[simp] theorem State.setPending_fault (es : List HostEvent) : (s.setPending es).fault = s.fault := rfl
@[simp] theorem State.setPending_pact (es : List HostEvent) : (s.setPending es).pact = s.pact := rfl
@[simp] theorem State.setPending_dact (es : List HostEvent) : (s.setPending es).dact = s.dact := rfl
@[simp] theorem State.setPending_lact (es : List HostEvent) : (s.setPending es).lact = s.lact := rfl
@[simp] theorem State.setPending_err (es : List HostEvent) : (s.setPending es).err = s.err := rfl
@[simp] theorem State.setPending_errcmd (es : List HostEvent) : (s.setPending es).errcmd = s.errcmd := rfl
@[simp] theorem State.setPending_errinfo (es : List HostEvent) : (s.setPending es).errinfo = s.errinfo := rfl
@[simp] theorem State.setPending_acc (es : List HostEvent) : (s.setPending es).acc = s.acc := rfl
@[simp] theorem State.setPending_nacc (es : List HostEvent) : (s.setPending es).nacc = s.nacc := rfl
@[simp] theorem State.setPending_outcnt (es : List HostEvent) : (s.setPending es).outcnt = s.outcnt := rfl
@[simp] theorem State.setPending_drem (es : List HostEvent) : (s.setPending es).drem = s.drem := rfl
@[simp] theorem State.setPending_dcnt (es : List HostEvent) : (s.setPending es).dcnt = s.dcnt := rfl
@[simp] theorem State.setPending_dincnt (es : List HostEvent) : (s.setPending es).dincnt = s.dincnt := rfl
@[simp] theorem State.setPending_path (es : List HostEvent) : (s.setPending es).path = s.path := rfl
@[simp] theorem State.setPending_ldsym (es : List HostEvent) : (s.setPending es).ldsym = s.ldsym := rfl
@[simp] theorem State.setPending_ldbuf (es : List HostEvent) : (s.setPending es).ldbuf = s.ldbuf := rfl
@[simp] theorem State.setPending_out (es : List HostEvent) : (s.setPending es).out = s.out := rfl
@[simp] theorem State.setPending_symout (es : List HostEvent) : (s.setPending es).symout = s.symout := rfl
@[simp] theorem State.setPending_pending (es : List HostEvent) : (s.setPending es).pending = es := rfl
@[simp] theorem State.setPending_responses (es : List HostEvent) : (s.setPending es).responses = s.responses := rfl

/-! ## State.reply -/

@[simp] theorem State.reply_freq (rc : ResultCode) (data : Count) : (s.reply rc data).freq = s.freq := rfl
@[simp] theorem State.reply_code (rc : ResultCode) (data : Count) : (s.reply rc data).code = s.code := rfl
@[simp] theorem State.reply_nsym (rc : ResultCode) (data : Count) : (s.reply rc data).nsym = s.nsym := rfl
@[simp] theorem State.reply_node (rc : ResultCode) (data : Count) : (s.reply rc data).node = s.node := rfl
@[simp] theorem State.reply_root (rc : ResultCode) (data : Count) : (s.reply rc data).root = s.root := rfl
@[simp] theorem State.reply_nnode (rc : ResultCode) (data : Count) : (s.reply rc data).nnode = s.nnode := rfl
@[simp] theorem State.reply_fault (rc : ResultCode) (data : Count) : (s.reply rc data).fault = s.fault := rfl
@[simp] theorem State.reply_pact (rc : ResultCode) (data : Count) : (s.reply rc data).pact = s.pact := rfl
@[simp] theorem State.reply_dact (rc : ResultCode) (data : Count) : (s.reply rc data).dact = s.dact := rfl
@[simp] theorem State.reply_lact (rc : ResultCode) (data : Count) : (s.reply rc data).lact = s.lact := rfl
@[simp] theorem State.reply_err (rc : ResultCode) (data : Count) : (s.reply rc data).err = s.err := rfl
@[simp] theorem State.reply_errcmd (rc : ResultCode) (data : Count) : (s.reply rc data).errcmd = s.errcmd := rfl
@[simp] theorem State.reply_errinfo (rc : ResultCode) (data : Count) : (s.reply rc data).errinfo = s.errinfo := rfl
@[simp] theorem State.reply_acc (rc : ResultCode) (data : Count) : (s.reply rc data).acc = s.acc := rfl
@[simp] theorem State.reply_nacc (rc : ResultCode) (data : Count) : (s.reply rc data).nacc = s.nacc := rfl
@[simp] theorem State.reply_outcnt (rc : ResultCode) (data : Count) : (s.reply rc data).outcnt = s.outcnt := rfl
@[simp] theorem State.reply_drem (rc : ResultCode) (data : Count) : (s.reply rc data).drem = s.drem := rfl
@[simp] theorem State.reply_dcnt (rc : ResultCode) (data : Count) : (s.reply rc data).dcnt = s.dcnt := rfl
@[simp] theorem State.reply_dincnt (rc : ResultCode) (data : Count) : (s.reply rc data).dincnt = s.dincnt := rfl
@[simp] theorem State.reply_path (rc : ResultCode) (data : Count) : (s.reply rc data).path = s.path := rfl
@[simp] theorem State.reply_ldsym (rc : ResultCode) (data : Count) : (s.reply rc data).ldsym = s.ldsym := rfl
@[simp] theorem State.reply_ldbuf (rc : ResultCode) (data : Count) : (s.reply rc data).ldbuf = s.ldbuf := rfl
@[simp] theorem State.reply_out (rc : ResultCode) (data : Count) : (s.reply rc data).out = s.out := rfl
@[simp] theorem State.reply_symout (rc : ResultCode) (data : Count) : (s.reply rc data).symout = s.symout := rfl
@[simp] theorem State.reply_pending (rc : ResultCode) (data : Count) : (s.reply rc data).pending = s.pending := rfl
@[simp] theorem State.reply_responses (rc : ResultCode) (data : Count) : (s.reply rc data).responses = s.responses ++ [{ rc := rc, data := data }] := rfl

/-! ## State.enterFault -/

@[simp] theorem State.enterFault_freq (head : BitVec 16) (e : ResultCode) (info : Count) : (s.enterFault head e info).freq = s.freq := rfl
@[simp] theorem State.enterFault_code (head : BitVec 16) (e : ResultCode) (info : Count) : (s.enterFault head e info).code = s.code := rfl
@[simp] theorem State.enterFault_nsym (head : BitVec 16) (e : ResultCode) (info : Count) : (s.enterFault head e info).nsym = s.nsym := rfl
@[simp] theorem State.enterFault_node (head : BitVec 16) (e : ResultCode) (info : Count) : (s.enterFault head e info).node = s.node := rfl
@[simp] theorem State.enterFault_root (head : BitVec 16) (e : ResultCode) (info : Count) : (s.enterFault head e info).root = s.root := rfl
@[simp] theorem State.enterFault_nnode (head : BitVec 16) (e : ResultCode) (info : Count) : (s.enterFault head e info).nnode = s.nnode := rfl
@[simp] theorem State.enterFault_fault (head : BitVec 16) (e : ResultCode) (info : Count) : (s.enterFault head e info).fault = true := rfl
@[simp] theorem State.enterFault_pact (head : BitVec 16) (e : ResultCode) (info : Count) : (s.enterFault head e info).pact = s.pact := rfl
@[simp] theorem State.enterFault_dact (head : BitVec 16) (e : ResultCode) (info : Count) : (s.enterFault head e info).dact = s.dact := rfl
@[simp] theorem State.enterFault_lact (head : BitVec 16) (e : ResultCode) (info : Count) : (s.enterFault head e info).lact = s.lact := rfl
@[simp] theorem State.enterFault_err (head : BitVec 16) (e : ResultCode) (info : Count) : (s.enterFault head e info).err = e := rfl
@[simp] theorem State.enterFault_errcmd (head : BitVec 16) (e : ResultCode) (info : Count) : (s.enterFault head e info).errcmd = head := rfl
@[simp] theorem State.enterFault_errinfo (head : BitVec 16) (e : ResultCode) (info : Count) : (s.enterFault head e info).errinfo = info := rfl
@[simp] theorem State.enterFault_acc (head : BitVec 16) (e : ResultCode) (info : Count) : (s.enterFault head e info).acc = s.acc := rfl
@[simp] theorem State.enterFault_nacc (head : BitVec 16) (e : ResultCode) (info : Count) : (s.enterFault head e info).nacc = s.nacc := rfl
@[simp] theorem State.enterFault_outcnt (head : BitVec 16) (e : ResultCode) (info : Count) : (s.enterFault head e info).outcnt = s.outcnt := rfl
@[simp] theorem State.enterFault_drem (head : BitVec 16) (e : ResultCode) (info : Count) : (s.enterFault head e info).drem = s.drem := rfl
@[simp] theorem State.enterFault_dcnt (head : BitVec 16) (e : ResultCode) (info : Count) : (s.enterFault head e info).dcnt = s.dcnt := rfl
@[simp] theorem State.enterFault_dincnt (head : BitVec 16) (e : ResultCode) (info : Count) : (s.enterFault head e info).dincnt = s.dincnt := rfl
@[simp] theorem State.enterFault_path (head : BitVec 16) (e : ResultCode) (info : Count) : (s.enterFault head e info).path = s.path := rfl
@[simp] theorem State.enterFault_ldsym (head : BitVec 16) (e : ResultCode) (info : Count) : (s.enterFault head e info).ldsym = s.ldsym := rfl
@[simp] theorem State.enterFault_ldbuf (head : BitVec 16) (e : ResultCode) (info : Count) : (s.enterFault head e info).ldbuf = s.ldbuf := rfl
@[simp] theorem State.enterFault_out (head : BitVec 16) (e : ResultCode) (info : Count) : (s.enterFault head e info).out = s.out := rfl
@[simp] theorem State.enterFault_symout (head : BitVec 16) (e : ResultCode) (info : Count) : (s.enterFault head e info).symout = s.symout := rfl
@[simp] theorem State.enterFault_pending (head : BitVec 16) (e : ResultCode) (info : Count) : (s.enterFault head e info).pending = s.pending := rfl
@[simp] theorem State.enterFault_responses (head : BitVec 16) (e : ResultCode) (info : Count) : (s.enterFault head e info).responses = s.responses := rfl

/-! ## State.cleared -/

@[simp] theorem State.cleared_freq : s.cleared.freq = State.reset.freq := rfl
@[simp] theorem State.cleared_code : s.cleared.code = State.reset.code := rfl
@[simp] theorem State.cleared_nsym : s.cleared.nsym = State.reset.nsym := rfl
@[simp] theorem State.cleared_node : s.cleared.node = State.reset.node := rfl
@[simp] theorem State.cleared_root : s.cleared.root = State.reset.root := rfl
@[simp] theorem State.cleared_nnode : s.cleared.nnode = State.reset.nnode := rfl
@[simp] theorem State.cleared_fault : s.cleared.fault = State.reset.fault := rfl
@[simp] theorem State.cleared_pact : s.cleared.pact = State.reset.pact := rfl
@[simp] theorem State.cleared_dact : s.cleared.dact = State.reset.dact := rfl
@[simp] theorem State.cleared_lact : s.cleared.lact = State.reset.lact := rfl
@[simp] theorem State.cleared_err : s.cleared.err = State.reset.err := rfl
@[simp] theorem State.cleared_errcmd : s.cleared.errcmd = State.reset.errcmd := rfl
@[simp] theorem State.cleared_errinfo : s.cleared.errinfo = State.reset.errinfo := rfl
@[simp] theorem State.cleared_acc : s.cleared.acc = State.reset.acc := rfl
@[simp] theorem State.cleared_nacc : s.cleared.nacc = State.reset.nacc := rfl
@[simp] theorem State.cleared_outcnt : s.cleared.outcnt = State.reset.outcnt := rfl
@[simp] theorem State.cleared_drem : s.cleared.drem = State.reset.drem := rfl
@[simp] theorem State.cleared_dcnt : s.cleared.dcnt = State.reset.dcnt := rfl
@[simp] theorem State.cleared_dincnt : s.cleared.dincnt = State.reset.dincnt := rfl
@[simp] theorem State.cleared_path : s.cleared.path = State.reset.path := rfl
@[simp] theorem State.cleared_ldsym : s.cleared.ldsym = State.reset.ldsym := rfl
@[simp] theorem State.cleared_ldbuf : s.cleared.ldbuf = State.reset.ldbuf := rfl
@[simp] theorem State.cleared_out : s.cleared.out = State.reset.out := rfl
@[simp] theorem State.cleared_symout : s.cleared.symout = State.reset.symout := rfl
@[simp] theorem State.cleared_pending : s.cleared.pending = s.pending := rfl
@[simp] theorem State.cleared_responses : s.cleared.responses = s.responses := rfl

end Sys2Proof.Machine
end

