-- ==== Sys2Proof/Laws/Ops.lean ====
section
/-! SUPPORT. One lemma per shared operation that says once everything it can do. -/

namespace Sys2Proof.Machine

variable (s t : State)

/-! ## Completing, faulting, the common check -/

theorem respond_eq (d : Count) : respond d s = .next (s.afterOk d) := rfl

theorem takeFault_eq (head : BitVec 16) (e : ResultCode) (info : Count) :
    takeFault head e info s = .next (s.afterFault head e info) := rfl

theorem raise_eq (i : Instr) (e : ResultCode) (info : Count) :
    raise i e info s = .next (s.afterFault i.head e info) := rfl

theorem raiseSeq_eq (i : Instr) : raiseSeq i s = .next (s.afterFault i.head .seq s.status) := rfl

theorem abort_eq : abort s = .next s.afterAbort := rfl

theorem returnToReset_eq : returnToReset s = s.blockReset := rfl

theorem unlessFaulted_clear (rule : Result) (h : s.fault = false) : unlessFaulted s rule = rule := by
  simp [unlessFaulted, h]

theorem unlessFaulted_fault (rule : Result) (h : s.fault = true) : unlessFaulted s rule = .next s.afterAbort := by
  simp [unlessFaulted, h, abort_eq]

/-- Where the common check lets a command answer a next state: the abort, or the command's own rule. -/
theorem unlessFaulted_cases {rule : Result} (h : unlessFaulted s rule = .next t) :
    (s.fault = true ∧ t = s.afterAbort) ∨ (s.fault = false ∧ rule = .next t) := by
  cases hf : s.fault with
  | true =>
    rw [unlessFaulted_fault s rule hf] at h
    exact .inl ⟨rfl, by injection h with h; exact h.symm⟩
  | false =>
    rw [unlessFaulted_clear s rule hf] at h
    exact .inr ⟨rfl, h⟩

/-- Every command but `CLR` and `CSRR` is aborted while `FAULT = 1` (rule R231). -/
theorem exec_of_fault (i : Instr) (h : s.fault = true) (hc : i ≠ .clr) (hr : ∀ idx, i ≠ .csrr idx) :
    exec i s = .next s.afterAbort := by
  cases i with
  | clr => exact absurd rfl hc
  | csrr idx => exact absurd rfl (hr idx)
  | nop => exact unlessFaulted_fault s _ h
  | fset sym cnt => exact unlessFaulted_fault s _ h
  | fcnt sym => exact unlessFaulted_fault s _ h
  | fget sym => exact unlessFaulted_fault s _ h
  | build => exact unlessFaulted_fault s _ h
  | nwgt hd => exact unlessFaulted_fault s _ h
  | nlnk hd => exact unlessFaulted_fault s _ h
  | assign => exact unlessFaulted_fault s _ h
  | clen sym => exact unlessFaulted_fault s _ h
  | cbit sym pos => exact unlessFaulted_fault s _ h
  | cbegin sym => exact unlessFaulted_fault s _ h
  | cpush bit => exact unlessFaulted_fault s _ h
  | cend => exact unlessFaulted_fault s _ h
  | pack sym => exact unlessFaulted_fault s _ h
  | pchr ch => exact unlessFaulted_fault s _ h
  | pflush => exact unlessFaulted_fault s _ h
  | dbegin n => exact unlessFaulted_fault s _ h
  | dbyte v => exact unlessFaulted_fault s _ h
  | dend => exact unlessFaulted_fault s _ h

/-! ## The packer's shared operation -/

/-- What `emitBytes` does where the counter has room. -/
theorem emitBytes_ok (i : Instr) (bytes : List Byte) (rest : Bits) (active : Bool)
    (h : s.outcnt.toNat + bytes.length ≤ 2 ^ 32 - 1) :
    emitBytes i bytes rest active s = .next (State.afterOk
      { s with
        out := s.out ++ bytes
        outcnt := s.outcnt + BitVec.ofNat 32 bytes.length
        acc := rest
        nacc := BitVec.ofNat 3 rest.length
        pact := active }
      (s.outcnt + BitVec.ofNat 32 bytes.length)) := by
  have : ¬ 2 ^ 32 - 1 < s.outcnt.toNat + bytes.length := by omega
  simp only [emitBytes, Config.cntMax, this, if_false]
  rfl

/-- What `emitBytes` does where the counter has none. -/
theorem emitBytes_overflow (i : Instr) (bytes : List Byte) (rest : Bits) (active : Bool)
    (h : 2 ^ 32 - 1 < s.outcnt.toNat + bytes.length) :
    emitBytes i bytes rest active s = .next (s.afterFault i.head .overflow 0x101) := by
  simp only [emitBytes, Config.cntMax, h, if_true]
  rfl

/-! ## Bytes and their bits (rule R57) -/

@[simp] theorem bitsOfByte_length (v : Byte) : (bitsOfByte v).length = 8 := rfl

/-- A byte holds the eight bits it was made of. -/
theorem bitsOfByte_byteOf (s : Bits) (h : s.length = 8) : bitsOfByte (byteOf s) = s := by
  match s, h with
  | [a, b, c, d, e, f, g, k], _ =>
    revert a b c d e f g k
    decide

/-- A byte is the one its eight bits make. -/
theorem byteOf_bitsOfByte (v : Byte) : byteOf (bitsOfByte v) = v := by
  revert v
  decide +kernel

@[simp] theorem bytesOf_length (q : Nat) (s : Bits) : (bytesOf q s).length = q := by
  induction q generalizing s with
  | zero => rfl
  | succ q ih => simp [bytesOf, ih]

/-- The bytes of a bit string hold its whole groups of eight (rule R180). -/
theorem bitsOfBytes_bytesOf (q : Nat) (s : Bits) (h : 8 * q ≤ s.length) : bitsOfBytes (bytesOf q s) = s.take (8 * q) := by
  induction q generalizing s with
  | zero => simp [bytesOf, bitsOfBytes]
  | succ q ih =>
    have h8 : (s.take 8).length = 8 := by simp; omega
    have hd : 8 * q ≤ (s.drop 8).length := by simp; omega
    have := ih (s.drop 8) hd
    simp only [bytesOf, bitsOfBytes, List.flatMap_cons] at this ⊢
    rw [bitsOfByte_byteOf _ h8, this, Nat.mul_succ, Nat.add_comm, List.take_add]

/-! ## Symbols (rule R51) -/

@[simp] theorem mem_allSyms (b : Byte) : b ∈ allSyms := by
  simp only [allSyms, List.mem_map, List.mem_range]
  exact ⟨b.toNat, b.isLt, by simp⟩

theorem allSyms_nodup : allSyms.Nodup := by
  refine List.Nodup.map_on ?_ List.nodup_range
  intro x hx y hy h
  have := congrArg BitVec.toNat h
  simp only [List.mem_range] at hx hy
  simpa [Nat.mod_eq_of_lt hx, Nat.mod_eq_of_lt hy] using this

/-- The symbols stand in ascending order, so that the first one found is the least. -/
theorem allSyms_sorted : allSyms.Pairwise fun a b => a < b := by
  decide +kernel

/-- The leaf of `p` in the implied tree is the least symbol whose code is `p` (rule R200). -/
theorem leafAt_eq_some (c : Cells 8 Bits) (p : Bits) (b : Byte) : leafAt c p = some b ↔ LeastWithCode c p b := by
  simp only [leafAt, LeastWithCode, List.find?_eq_some_iff_append, decide_eq_true_eq, Bool.not_eq_true',
    decide_eq_false_iff_not]
  constructor
  · rintro ⟨hb, as, bs, hsplit, has⟩
    refine ⟨hb, fun u hu => ?_⟩
    have hsort := allSyms_sorted
    have hmem := mem_allSyms u
    rw [hsplit] at hsort hmem
    rcases List.mem_append.mp hmem with hm | hm
    · exact has u hm
    · exfalso
      rcases List.mem_cons.mp hm with rfl | hm
      · bv_omega
      · have := (List.pairwise_cons.mp (List.pairwise_append.mp hsort).2.1).1 u hm
        bv_omega
  · rintro ⟨hb, hl⟩
    obtain ⟨as, bs, hsplit⟩ := List.append_of_mem (mem_allSyms b)
    refine ⟨hb, as, bs, hsplit, fun u hu => hl u ?_⟩
    have hsort := allSyms_sorted
    rw [hsplit] at hsort
    exact (List.pairwise_append.mp hsort).2.2 u hu b (by simp)

theorem leafAt_eq_none (c : Cells 8 Bits) (p : Bits) : leafAt c p = none ↔ ∀ u, readCode c u ≠ p := by
  simp [leafAt]

/-- `p` is a proper prefix of `q`, as a statement about lists. -/
theorem properPrefix_iff (p q : Bits) : properPrefix p q = true ↔ p <+: q ∧ p.length < q.length := by
  simp [properPrefix]

theorem innerAt_iff (c : Cells 8 Bits) (p : Bits) : innerAt c p = true ↔ ∃ u, properPrefix p (readCode c u) = true := by
  simp [innerAt]

end Sys2Proof.Machine
end

