-- ==== Sys2Proof/Laws/PerInstr.lean ====
section
/-! SUPPORT. Statements made of each command as syntax: one lemma per constructor of `Instr`. -/

namespace Sys2Proof.Laws.WellFormedness

/-- The command's word is legal: its fields pass the checks of rule R82. -/
def Statement (i : Instr) : Prop :=
  i.wellFormed = true

/-- The opcode map gives each opcode back (rule R84). -/
theorem ofByte?_byte (o : Opcode) : Opcode.ofByte? o.byte = some o := by
  cases o <;> rfl

/-- The two checks of rule R82. -/
theorem of_fields (o : Opcode) (sym : Byte) (data : Count) (hs : o.format.usesSym = true ∨ sym = 0)
    (hd : data &&& o.dataMustBeZero = 0) : RawCommand.wellFormed { op := o.byte, sym := sym, data := data } = true := by
  simpa [RawCommand.wellFormed, ofByte?_byte, hd] using hs

/-- A narrow operand leaves the bits above it zero. -/
theorem high_bits_zero {n : Nat} (v : BitVec n) (m : Count) (h : m &&& BitVec.setWidth 32 (BitVec.allOnes n) = 0) :
    BitVec.setWidth 32 v &&& m = 0 := by
  ext i hi
  have := congrArg (fun w => w.getLsbD i) h
  simp only [BitVec.getLsbD_and, BitVec.getLsbD_setWidth, BitVec.getLsbD_allOnes, BitVec.getElem_and,
    BitVec.getElem_setWidth, hi, decide_true, Bool.true_and] at this ⊢
  by_cases hn : i < n
  · simp_all [BitVec.getLsbD_eq_getElem]
  · simp [BitVec.getLsbD_of_ge v i (by omega)]

theorem nop : Statement .nop := of_fields .nop 0 0 (.inr rfl) rfl
theorem clr : Statement .clr := of_fields .clr 0 0 (.inr rfl) rfl
theorem csrr (idx : Byte) : Statement (.csrr idx) :=
  of_fields .csrr 0 _ (.inr rfl) (high_bits_zero idx _ (by decide))
theorem fset (sym : Byte) (cnt : Count) : Statement (.fset sym cnt) :=
  of_fields .fset sym cnt (.inl rfl) (BitVec.and_zero)
theorem fcnt (sym : Byte) : Statement (.fcnt sym) := of_fields .fcnt sym 0 (.inl rfl) rfl
theorem fget (sym : Byte) : Statement (.fget sym) := of_fields .fget sym 0 (.inl rfl) rfl
theorem build : Statement .build := of_fields .build 0 0 (.inr rfl) rfl
theorem nwgt (h : Handle) : Statement (.nwgt h) :=
  of_fields .nwgt 0 _ (.inr rfl) (high_bits_zero h _ (by decide))
theorem nlnk (h : Handle) : Statement (.nlnk h) :=
  of_fields .nlnk 0 _ (.inr rfl) (high_bits_zero h _ (by decide))
theorem assign : Statement .assign := of_fields .assign 0 0 (.inr rfl) rfl
theorem clen (sym : Byte) : Statement (.clen sym) := of_fields .clen sym 0 (.inl rfl) rfl
theorem cbit (sym pos : Byte) : Statement (.cbit sym pos) :=
  of_fields .cbit sym _ (.inl rfl) (high_bits_zero pos _ (by decide))
theorem cbegin (sym : Byte) : Statement (.cbegin sym) := of_fields .cbegin sym 0 (.inl rfl) rfl
theorem cpush (bit : Bool) : Statement (.cpush bit) :=
  of_fields .cpush 0 _ (.inr rfl) (by cases bit <;> rfl)
theorem cend : Statement .cend := of_fields .cend 0 0 (.inr rfl) rfl
theorem pack (sym : Byte) : Statement (.pack sym) := of_fields .pack sym 0 (.inl rfl) rfl
theorem pchr (ch : Byte) : Statement (.pchr ch) := of_fields .pchr ch 0 (.inl rfl) rfl
theorem pflush : Statement .pflush := of_fields .pflush 0 0 (.inr rfl) rfl
theorem dbegin (n : Count) : Statement (.dbegin n) := of_fields .dbegin 0 n (.inr rfl) (BitVec.and_zero)
theorem dbyte (v : Byte) : Statement (.dbyte v) := of_fields .dbyte v 0 (.inl rfl) rfl
theorem dend : Statement .dend := of_fields .dend 0 0 (.inr rfl) rfl

end Sys2Proof.Laws.WellFormedness
end

