-- ==== Sys2Proof/Tests/Slice0.lean ====
section
/-! SUPPORT. The model's own tests. Expected values are the words, responses and stream bytes that spec/95_test_vectors.md
(V and P numbers) and the examples of the numbered rules print; none was taken from the model. The last part shows, for
each statement with hypotheses, a state and operands that meet them, one for each clause. -/

namespace Sys2Proof.Tests

-- One theorem at a time: the kernel evaluations below would otherwise wait for each other in many threads.
set_option Elab.async false

open Sys2Proof Sys2Proof.Machine

/-! ## Helpers -/

/-- The last response of an outcome, as the 40-bit word of rule R81. -/
def rsp : Result → Option RspWord
  | .next t => t.responses.getLast?.map Response.word
  | .fault _ => none
  | .refused _ => none

/-- Something read from the state an outcome gives. -/
def got {α : Type} (f : State → α) : Result → Option α
  | .next t => some (f t)
  | .fault _ => none
  | .refused _ => none

/-- The state an outcome gives. -/
def after : Result → Option State := got id

/-- The frequencies of V2: 'A' and 'B' once each. -/
def sFreq : State := { State.reset with freq := [(0x41, 1), (0x42, 1)] }

/-- The arena of V2, as the example of rule R130 prints it. -/
def arenaAB : Cells 9 Node := [(0x41, .leaf 0x41 1), (0x42, .leaf 0x42 1), (256, .internal 2 0x41 0x42)]

/-- V2 after `BUILD`. -/
def sTree : State := { sFreq with node := arenaAB, root := 256, nnode := 3 }

/-- The codes of V2. -/
def codesAB : Cells 8 Bits := [(0x41, [false]), (0x42, [true])]

/-- V2 after `BUILD` and `ASSIGN`. -/
def sCode : State := { sTree with code := codesAB, nsym := 2 }

/-- Table T of spec/95_test_vectors.md section 4, the codes of "ABRACADABRA". -/
def codesT : Cells 8 Bits :=
  [(0x41, [false]), (0x42, [true, true, false]), (0x43, [true, false, false]), (0x44, [true, false, true]),
   (0x52, [true, true, true])]

/-- Table T loaded. -/
def sT : State := { State.reset with code := codesT, nsym := 5 }

/-- Table T loaded and a decode open. -/
def sDec (rem cnt inc : Count) (p : Bits) : State :=
  { sT with dact := true, drem := rem, dcnt := cnt, dincnt := inc, path := p }

/-- An open load of an entry. -/
def sLoad (sym : Byte) (bits : Bits) : State := { State.reset with lact := true, ldsym := sym, ldbuf := bits }

/-- The packer with pending bits and a byte count. -/
def sPack (bits : Bits) (n : BitVec 3) (cnt : Count) : State :=
  { State.reset with acc := bits, nacc := n, outcnt := cnt, pact := true }

/-- A state with a fault latched. -/
def sFault : State := { State.reset with fault := true, err := .range, errcmd := 0x2100, errinfo := 511 }

/-- The host's next event is a command word. -/
def withWord (s : State) (w : CmdWord) : State := { s with pending := [.command w] }

/-! ## Well-formedness: an ill-formed triple for each check of rule R82 -/

theorem test_illFormed_opcode : RawCommand.wellFormed ⟨0x03, 0x00, 0x00000000⟩ = false := by decide
theorem test_illFormed_sym_of_Z : RawCommand.wellFormed ⟨0x00, 0x01, 0x00000000⟩ = false := by decide
theorem test_illFormed_sym_of_D : RawCommand.wellFormed ⟨0x50, 0x01, 0x00000000⟩ = false := by decide
theorem test_illFormed_data_of_Z : RawCommand.wellFormed ⟨0x20, 0x00, 0x00000001⟩ = false := by decide
theorem test_illFormed_data_of_S : RawCommand.wellFormed ⟨0x11, 0x41, 0x00000001⟩ = false := by decide
theorem test_illFormed_idx : RawCommand.wellFormed ⟨0x02, 0x00, 0x00000100⟩ = false := by decide
theorem test_illFormed_handle : RawCommand.wellFormed ⟨0x21, 0x00, 0x00000200⟩ = false := by decide
theorem test_illFormed_pos : RawCommand.wellFormed ⟨0x32, 0x41, 0x00000100⟩ = false := by decide
theorem test_illFormed_bit : RawCommand.wellFormed ⟨0x34, 0x00, 0x00000002⟩ = false := by decide
theorem test_wellFormed : RawCommand.wellFormed ⟨0x10, 0x41, 0xFFFFFFFF⟩ = true := by decide

/-! ## Decoding: one word for each command, from the layouts of rules R80 to R84 -/

theorem test_decode_nop : decode 0x000000000000 = .ok .nop := by decide
theorem test_decode_clr : decode 0x010000000000 = .ok .clr := by decide
theorem test_decode_csrr : decode 0x020000000007 = .ok (.csrr 7) := by decide
theorem test_decode_fset : decode 0x104100000005 = .ok (.fset 0x41 5) := by decide
theorem test_decode_fcnt : decode 0x114100000000 = .ok (.fcnt 0x41) := by decide
theorem test_decode_fget : decode 0x12FF00000000 = .ok (.fget 0xFF) := by decide
theorem test_decode_build : decode 0x200000000000 = .ok .build := by decide
theorem test_decode_nwgt : decode 0x2100000001FE = .ok (.nwgt 510) := by decide
theorem test_decode_nlnk : decode 0x220000000041 = .ok (.nlnk 0x41) := by decide
theorem test_decode_assign : decode 0x300000000000 = .ok .assign := by decide
theorem test_decode_clen : decode 0x314300000000 = .ok (.clen 0x43) := by decide
theorem test_decode_cbit : decode 0x324200000002 = .ok (.cbit 0x42 2) := by decide
theorem test_decode_cbegin : decode 0x334100000000 = .ok (.cbegin 0x41) := by decide
theorem test_decode_cpush : decode 0x340000000001 = .ok (.cpush true) ∧ decode 0x340000000000 = .ok (.cpush false) := by decide
theorem test_decode_cend : decode 0x350000000000 = .ok .cend := by decide
theorem test_decode_pack : decode 0x405200000000 = .ok (.pack 0x52) := by decide
theorem test_decode_pchr : decode 0x413100000000 = .ok (.pchr 0x31) := by decide
theorem test_decode_pflush : decode 0x420000000000 = .ok .pflush := by decide
theorem test_decode_dbegin : decode 0x50000000000B = .ok (.dbegin 11) := by decide
theorem test_decode_dbyte : decode 0x51DC00000000 = .ok (.dbyte 0xDC) := by decide
theorem test_decode_dend : decode 0x520000000000 = .ok .dend := by decide

/-- V84 to V97. -/
theorem test_decode_illegal :
    decode 0x030000000000 = .error .unassignedOpcode ∧ decode 0x000100000000 = .error .symNotZero ∧
    decode 0x200000000001 = .error .dataNotZero ∧ decode 0x114100000001 = .error .dataNotZero ∧
    decode 0x020000000100 = .error .dataNotZero ∧ decode 0x020100000000 = .error .symNotZero ∧
    decode 0x210000000200 = .error .dataNotZero ∧ decode 0x220000000200 = .error .dataNotZero ∧
    decode 0x340000000002 = .error .dataNotZero ∧ decode 0x324100000100 = .error .dataNotZero ∧
    decode 0x500100000000 = .error .symNotZero ∧ decode 0xFFFFFFFFFFFF = .error .unassignedOpcode ∧
    decode 0x530000000000 = .error .unassignedOpcode ∧ decode 0x0F0000000000 = .error .unassignedOpcode := by decide

theorem test_decodeTableWord : decodeTableWord 48 0x324200000002 = some (.cbit 0x42 2) ∧ decodeTableWord 48 0x030000000000 = none := by
  decide

/-- The syntax of rule R89's examples. -/
theorem test_asm :
    (Instr.fset 0x41 5).asm = "FSET 0x41, 5" ∧ (Instr.csrr 7).asm = "CSRR 7" ∧ (Instr.dbegin 11).asm = "DBEGIN 11" ∧
    Instr.pflush.asm = "PFLUSH" := by decide +kernel

/-! ## One step of each command -/

/-- V103, V100. -/
theorem test_nop : rsp (exec .nop State.reset) = some 0x0000000000 ∧ rsp (exec .nop sFault) = some 0x7F00000032 := by decide
/-- R111: the fault and the table are gone. -/
theorem test_clr : after (exec .clr { sCode with fault := true }) = some { State.reset with responses := [⟨.ok, 0⟩] } := by decide
/-- V99. -/
theorem test_csrr_reset : rsp (exec (.csrr 5) State.reset) = some 0x00000001FF := by decide
/-- P1, `CSRR 8` before `PFLUSH`. -/
theorem test_csrr_pacc : rsp (exec (.csrr 8) (sPack [true, true, false, true, true, true, false] 7 2)) = some 0x00000007DC := by
  decide +kernel
/-- V18: storing 0 removes the key. -/
theorem test_fset_zero : after (exec (.fset 0x41 0) sFreq) = some { sFreq with freq := [(0x42, 1)], responses := [⟨.ok, 0⟩] } := by decide
/-- R120's example: an entry is stored in its place. -/
theorem test_fset : got State.freq (exec (.fset 0x41 5) { State.reset with freq := [(0x42, 1)] }) = some [(0x41, 5), (0x42, 1)] := by
  decide
/-- V22: the last increment that fits. -/
theorem test_fcnt_top : rsp (exec (.fcnt 0x41) { State.reset with freq := [(0x41, 0xFFFFFFFE)] }) = some 0x00FFFFFFFF := by decide
/-- V22: the next one faults. -/
theorem test_fcnt_overflow :
    after (exec (.fcnt 0x41) { State.reset with freq := [(0x41, 0xFFFFFFFF)] }) = some
      { State.reset with
        freq := [(0x41, 0xFFFFFFFF)], fault := true, err := .overflow, errcmd := 0x1141, errinfo := 0x41
        responses := [⟨.overflow, 0x41⟩] } := by decide
/-- V23. -/
theorem test_fget : rsp (exec (.fget 0x42) sFreq) = some 0x0000000001 ∧ rsp (exec (.fget 0x80) sFreq) = some 0x0000000000 := by decide
/-- R130's example: the whole arena, `ROOT` and `NNODE`. -/
theorem test_build : after (exec .build sFreq) = some { sTree with responses := [⟨.ok, 3⟩] } := by decide +kernel
/-- V19: the sum is exactly 2^32. -/
theorem test_build_overflow :
    rsp (exec .build { State.reset with freq := [(0x41, 0xFFFFFFFF), (0x42, 1)] }) = some 0x4000000100 := by decide +kernel
/-- R139's example, V25. -/
theorem test_nwgt : rsp (exec (.nwgt 256) sTree) = some 0x0000000002 ∧ rsp (exec (.nwgt 511) sTree) = some 0x32000001FF := by decide
/-- R140's examples. -/
theorem test_nlnk : rsp (exec (.nlnk 256) sTree) = some 0x00C0420041 ∧ rsp (exec (.nlnk 0x41) sTree) = some 0x0080000041 := by decide
/-- R150's example. -/
theorem test_assign : after (exec .assign sTree) = some { sCode with responses := [⟨.ok, 2⟩] } := by decide +kernel
/-- V80. -/
theorem test_assign_refused : rsp (exec .assign { sCode with pact := true }) = some 0x3000000002 := by decide
/-- R158's example. -/
theorem test_clen : rsp (exec (.clen 0x41) sCode) = some 0x0000000001 ∧ rsp (exec (.clen 0x43) sCode) = some 0x0000000000 := by decide
/-- R159's example. -/
theorem test_cbit : rsp (exec (.cbit 0x42 2) sT) = some 0x0000000000 ∧ rsp (exec (.cbit 0x42 3) sT) = some 0x3200000003 := by decide
/-- R160's example, V79. -/
theorem test_cbegin :
    after (exec (.cbegin 0x41) State.reset) = some { sLoad 0x41 [] with responses := [⟨.ok, 0⟩] } ∧
    rsp (exec (.cbegin 0x42) (sLoad 0x41 [])) = some 0x3000000008 := by decide
/-- V74. -/
theorem test_cbegin_dup : rsp (exec (.cbegin 0x41) sT) = some 0x1600000041 := by decide
/-- R161's example. -/
theorem test_cpush :
    after (exec (.cpush false) (sLoad 0x42 [true, true])) = some { sLoad 0x42 [true, true, false] with responses := [⟨.ok, 3⟩] } := by
  decide
/-- V76: the 256th bit. -/
theorem test_cpush_long : rsp (exec (.cpush false) (sLoad 0x41 (List.replicate 255 false))) = some 0x1700000041 := by decide +kernel
/-- V73: the least of two conflicting byte values is named. -/
theorem test_cend_prefix :
    rsp (exec .cend { sLoad 0x42 [true] with code := [(0x41, [true, true]), (0x43, [true, false])], nsym := 2 }) = some 0x1500000041 := by
  decide +kernel
/-- V83. -/
theorem test_cend :
    after (exec .cend { sLoad 0x41 [false] with code := [(0x42, [true])], nsym := 1 }) = some
      { State.reset with code := codesAB, nsym := 2, ldsym := 0x41, ldbuf := [false], responses := [⟨.ok, 2⟩] } := by
  decide +kernel
/-- R181's example: the byte is complete. -/
theorem test_pack :
    after (exec (.pack 0x41) { sT with acc := [false, true, true, false, true, true, true], nacc := 7, pact := true }) = some
      { sT with out := [0x6E], outcnt := 1, pact := true, responses := [⟨.ok, 1⟩] } := by decide +kernel
/-- V30. -/
theorem test_pack_noCode : rsp (exec (.pack 0x41) State.reset) = some 0x2000000041 := by decide
/-- V31: the eighth character. -/
theorem test_pchr :
    got (fun t => (t.out, t.acc, t.nacc)) (exec (.pchr 0x31) (sPack [true, false, true, true, false, false, true] 7 0)) =
      some ([0xB3], [], 0) := by decide +kernel
/-- V33. -/
theorem test_pchr_char : rsp (exec (.pchr 0x01) State.reset) = some 0x2100000001 ∧ rsp (exec (.pchr 0x32) State.reset) = some 0x2100000032 := by
  decide
/-- R183's example: 7 pending bits. -/
theorem test_pflush :
    after (exec .pflush (sPack [true, true, false, true, true, true, false] 7 2)) = some
      { State.reset with out := [0xDC], outcnt := 3, responses := [⟨.ok, 3⟩] } := by decide +kernel
/-- V32: nothing pending. -/
theorem test_pflush_empty : after (exec .pflush (sPack [] 0 1)) = some { State.reset with outcnt := 1, responses := [⟨.ok, 1⟩] } := by decide
/-- R201's example, V79. -/
theorem test_dbegin :
    after (exec (.dbegin 11) sT) = some { sDec 11 0 0 [] with responses := [⟨.ok, 0⟩] } ∧
    rsp (exec (.dbegin 5) (sDec 5 0 0 [])) = some 0x3000000004 := by decide
/-- V53: a code straddles the byte boundary. -/
theorem test_dbyte :
    after (exec (.dbyte 0x80) (sDec 1 2 1 [true, true])) = some { sDec 0 3 2 [] with symout := [0x52], responses := [⟨.ok, 1⟩] } := by
  decide +kernel
/-- V49: a 1 bit in the pad, and the byte's symbol is withheld. -/
theorem test_dbyte_pad :
    got (fun t => (t.symout, t.drem, t.errcmd, t.errinfo)) (exec (.dbyte 0xDC) (sDec 1 8 2 [])) = some ([], 1, 0x51DC, 4) := by
  decide +kernel
/-- R203's examples. -/
theorem test_dend : rsp (exec .dend (sDec 0 11 3 [])) = some 0x000000000B ∧ rsp (exec .dend (sDec 3 8 2 [])) = some 0x1000000003 := by
  decide

/-- V100: the latch is not overwritten, and an illegal word is aborted too. -/
theorem test_illegal_word :
    rsp (step (withWord State.reset 0xFFFFFFFFFFFF)) = some 0x31FFFFFFFF ∧
    after (step (withWord sFault 0xFFFFFFFFFFFF)) = some { sFault with responses := [⟨.aborted, 0x32⟩] } := by decide

/-- The host's word is the very next one. -/
theorem test_withFetchWord : rsp (step (State.reset.withFetchWord 48 0x114100000000)) = some 0x0000000001 := by decide

/-- R45's views, on the state P1 ends in. -/
theorem test_stats :
    ({ sTree with outcnt := 3 } : State).compressOriginalSize = 2 ∧ State.reset.compressOriginalSize = 0 ∧
    (sDec 0 11 3 []).decompressOriginalSize = 11 ∧ (sDec 0 11 3 []).decompressCompressedSize = 3 ∧
    ({ sTree with outcnt := 3 } : State).compressCompressedSize = 3 := by decide

/-- R222's mapping of class 4. -/
theorem test_sourceClass :
    ResultCode.overflow.sourceClass .dbyte = some .formatError ∧ ResultCode.overflow.sourceClass .pack = some .encodingError ∧
    ResultCode.seq.sourceClass .dend = some .encodingError ∧ ResultCode.ok.sourceClass .nop = none := by decide

/-! ## Witnesses: a state and operands for each clause of each statement with hypotheses -/

theorem test_witness_EncodeDecode : decode 0x3241000000FE = .ok (.cbit 0x41 254) := by decide

theorem test_witness_DecodeFollowsOpcodeTable :
    (⟨.cbit, 0x320000000000, 0xFF00FFFFFF00⟩ : TableRow) ∈ opcodeTable ∧
    (0x3241000000FE : CmdWord) &&& 0xFF00FFFFFF00 = 0x320000000000 := by decide

/-- An illegal word on either side of the latch. -/
theorem test_witness_IllegalWords :
    (withWord State.reset 0x210000000200).pending = .command 0x210000000200 :: [] ∧
    decode 0x210000000200 = .error .dataNotZero ∧ (withWord State.reset 0x210000000200).fault = false ∧
    (withWord sFault 0x210000000200).fault = true := by decide

theorem test_witness_StepRunsDecodedCommand :
    (withWord sT 0x405200000000).pending = .command 0x405200000000 :: [] ∧ decode 0x405200000000 = .ok (.pack 0x52) := by decide

theorem test_witness_StepWaitsAndResets :
    sT.pending = [] ∧ ({ sT with pending := [.reset] } : State).pending = .reset :: [] := by decide

/-- The clauses under `FAULT = 1`: `CLR`, `CSRR`, another command, an illegal word; under `FAULT = 0`: an illegal word and a
command. -/
theorem test_witness_CommonChecks :
    (withWord sFault 0x010000000000).pending = .command 0x010000000000 :: [] ∧ sFault.fault = true ∧ sT.fault = false ∧
    decode 0x010000000000 = .ok .clr ∧ decode 0x020000000001 = .ok (.csrr 1) ∧
    decode 0x300000000000 = .ok .assign ∧ Instr.assign.opcode ≠ .clr ∧ Instr.assign.opcode ≠ .csrr ∧
    decode 0x020100000000 = .error .symNotZero := by decide

/-- V19's table for `MKCODE`, whose `BUILD` faults before its `ASSIGN`, and a double entry for `CDEF`, whose `CBEGIN`
faults before the rest. -/
theorem test_witness_PseudoInstructions :
    Pseudo.mkcode.expand = [.build] ++ [.assign] ∧
    got State.fault (execAll [.build] { State.reset with freq := [(0x41, 0xFFFFFFFF), (0x42, 1)] }) = some true ∧
    (Pseudo.cdef 0x41 [false]).expand = [.cbegin 0x41] ++ [.cpush false, .cend] ∧
    got State.fault (execAll [.cbegin 0x41] sT) = some true := by decide +kernel

theorem test_witness_ResetAndClrState : ({ sCode with pending := [.reset, .command 0] } : State).pending = .reset :: [.command 0] := by
  decide

theorem test_witness_NopRule : sT.fault = false ∧ sFault.fault = true := by decide

theorem test_witness_ClrRule : ∃ t, exec .clr sCode = .next t ∧ t.code = [] := ⟨_, rfl, rfl⟩

/-- The conditional registers at their greatest values, the first and the last reserved index, an illegal `CSRR` word on
either side of the latch. -/
theorem test_witness_CsrrRule :
    (sPack [true, true, false, true, true, true, false] 7 2).acc.length ≤ 7 ∧
    bitsOfByte 0xDC = [true, true, false, true, true, true, false] ++ List.replicate (8 - 7) false ∧
    (List.replicate 254 true : Bits).length ≤ 255 ∧ (sLoad 0x41 (List.replicate 255 false)).ldbuf.length ≤ 255 ∧
    14 ≤ (14 : Byte).toNat ∧ 14 ≤ (255 : Byte).toNat ∧
    (withWord sFault 0x020000000100).pending = .command 0x020000000100 :: [] ∧
    (0x020000000100 : CmdWord).extractLsb' 40 8 = 0x02 ∧ (0x020000000100 : CmdWord) &&& 0x00FFFFFFFF00 ≠ 0 ∧
    sFault.fault = true ∧ (withWord sT 0x020000000100).fault = false := by decide +kernel

theorem test_witness_FsetRule : sFreq.fault = false := by decide

/-- Both sides of the limit. -/
theorem test_witness_FcntRule :
    (({ State.reset with freq := [(0x41, 0xFFFFFFFF)] } : State).freqAt 0x41).toNat = 2 ^ 32 - 1 ∧
    (({ State.reset with freq := [(0x41, 0xFFFFFFFE)] } : State).freqAt 0x41).toNat < 2 ^ 32 - 1 ∧ State.reset.fault = false := by
  decide

theorem test_witness_FgetRule : sFreq.fault = false ∧ sFreq.freqAt 0x41 = 1 := by decide

/-- A byte value that reaches the largest count. -/
theorem test_witness_CountingContract :
    (∀ b : Byte, (({ State.reset with freq := [(0x41, 0xFFFFFFFE)] } : State).freqAt b).toNat + [(0x41 : Byte)].count b < 2 ^ 32) ∧
    (∀ b : Byte, [(0x41 : Byte), 0x42, 0x41].count b < 2 ^ 32) := by decide +kernel

/-- V19's table, whose sum is exactly 2^32. -/
theorem test_witness_BuildOverflow :
    State.reset.fault = false ∧ 2 ^ 32 ≤ freqSum [(0x41, 0xFFFFFFFF), (0x42, 1)] := by decide +kernel

/-- One key, two keys, and the largest sum that fits (V20). -/
theorem test_witness_BuildShape :
    freqSum [(0x41, 0xFFFFFFFF)] < 2 ^ 32 ∧ keyCount [(0x41, 0xFFFFFFFF)] = 1 ∧
    freqSum [(0x41, 0xFFFFFFFE), (0x42, 1)] < 2 ^ 32 ∧ keyCount [(0x41, 0xFFFFFFFE), (0x42, 1)] = 2 := by decide +kernel

theorem test_witness_BuildEmptyTable : sT.fault = false ∧ ∀ b, sT.freqAt b = 0 := by decide +kernel

theorem test_witness_BuildSingleKey :
    ({ sT with freq := [(0x41, 5)] } : State).freqAt 0x41 ≠ 0 ∧
    (∀ b', b' ≠ 0x41 → ({ sT with freq := [(0x41, 5)] } : State).freqAt b' = 0) := by decide +kernel

/-- V2's only merge. -/
theorem test_witness_BuildMergesGreedily :
    after (exec .build sFreq) = some { sTree with responses := [⟨.ok, 3⟩] } ∧ sTree.fault = false ∧ 0 + 1 < keyCount sFreq.freq := by
  decide +kernel

/-- Handle 511, the greatest handle with no node, a leaf, an internal node. -/
theorem test_witness_NwgtRule :
    (510 : Handle) ≠ 511 ∧ sTree.nodeAt 510 = .invalid ∧ sTree.nodeAt 0x42 = .leaf 0x42 1 ∧
    sTree.nodeAt 256 = .internal 2 0x41 0x42 ∧ sTree.fault = false := by decide

theorem test_witness_NlnkRule :
    (0 : Handle) ≠ 511 ∧ sTree.nodeAt 0 = .invalid ∧ sTree.nodeAt 0x41 = .leaf 0x41 1 ∧
    sTree.nodeAt 256 = .internal 2 0x41 0x42 ∧ sTree.fault = false := by decide

/-! ### Trees -/

/-- The three nodes of V2's arena. -/
theorem arenaAB_cases (h : Handle) : h = 0x41 ∨ h = 0x42 ∨ h = 256 ∨ readNode arenaAB h = .invalid := by
  revert h; decide +kernel

theorem arenaAB_internal {h l r : Handle} {w : Count} (e : readNode arenaAB h = .internal w l r) :
    h = 256 ∧ w = 2 ∧ l = 0x41 ∧ r = 0x42 := by
  rcases arenaAB_cases h with rfl | rfl | rfl | hi
  · exact nomatch (show readNode arenaAB 0x41 = .leaf 0x41 1 by decide).symm.trans e
  · exact nomatch (show readNode arenaAB 0x42 = .leaf 0x42 1 by decide).symm.trans e
  · rw [show readNode arenaAB 256 = .internal 2 0x41 0x42 by decide] at e
    injection e with a b c
    exact ⟨rfl, a.symm, b.symm, c.symm⟩
  · exact absurd (hi.symm.trans e) (by simp)

/-- V2's tree satisfies rule R26. -/
theorem arenaAB_treeInv : TreeInv arenaAB 256 3 := by
  refine .inr ⟨2, by decide, by decide +kernel, by decide, ?_, ?_, by decide, ?_, ?_⟩
  · intro b
    rcases arenaAB_cases (leafHandle b) with hb | hb | hb | hb
    · obtain rfl : b = 0x41 := by revert b; decide +kernel
      exact .inr ⟨1, by decide, by decide⟩
    · obtain rfl : b = 0x42 := by revert b; decide +kernel
      exact .inr ⟨1, by decide, by decide⟩
    · exact absurd hb (by revert b; decide +kernel)
    · exact .inl hb
  · intro h hh
    split
    · obtain rfl : h = 256 := by apply BitVec.eq_of_toNat_eq; simp; omega
      exact ⟨2, 0x41, 0x42, by decide⟩
    · rcases arenaAB_cases h with rfl | rfl | rfl | hi
      · exact absurd hh (by decide)
      · exact absurd hh (by decide)
      · contradiction
      · exact hi
  · intro h w l r e
    obtain ⟨rfl, rfl, rfl, rfl⟩ := arenaAB_internal e
    decide
  · intro h hv hr
    refine ⟨256, ⟨2, 0x41, 0x42, by decide, ?_⟩, fun q ⟨w, l, r, e, _⟩ => (arenaAB_internal e).1⟩
    rcases arenaAB_cases h with rfl | rfl | rfl | hi
    · exact .inl rfl
    · exact .inr rfl
    · exact absurd rfl hr
    · exact absurd hi hv

/-- The tree of one key satisfies rule R26. -/
theorem lone_treeInv : TreeInv [(0x41, .leaf 0x41 5)] 0x41 1 := by
  have cases (h : Handle) : h = 0x41 ∨ readNode [(0x41, .leaf 0x41 5)] h = .invalid := by revert h; decide +kernel
  have at41 : readNode [(0x41, .leaf 0x41 5)] 0x41 = .leaf 0x41 5 := by decide
  have none_internal (h : Handle) (w : Count) (l r : Handle) : readNode [(0x41, .leaf 0x41 5)] h ≠ .internal w l r := by
    intro e
    rcases cases h with rfl | hi
    · exact nomatch at41.symm.trans e
    · exact nomatch hi.symm.trans e
  refine .inr ⟨1, by decide, by decide +kernel, by decide, ?_, ?_, by decide, ?_, ?_⟩
  · intro b
    rcases cases (leafHandle b) with hb | hb
    · obtain rfl : b = 0x41 := by revert b; decide +kernel
      exact .inr ⟨5, by decide, by decide⟩
    · exact .inl hb
  · intro h hh
    rw [if_neg (by omega)]
    rcases cases h with rfl | hi
    · exact absurd hh (by decide)
    · exact hi
  · intro h w l r e
    exact absurd e (none_internal h w l r)
  · intro h hv hr
    rcases cases h with rfl | hi
    · exact absurd rfl hr
    · exact absurd hi hv

/-- Refused twice over; the empty tree, the lone symbol, a tree with an internal root, and paths in it. -/
theorem test_witness_AssignRule :
    ({ sTree with pact := true } : State).pact = true ∧ ({ sTree with dact := true } : State).dact = true ∧
    sTree.fault = false ∧ sTree.pact = false ∧ sTree.dact = false ∧ TreeInv sTree.node sTree.root sTree.nnode ∧
    TreeInv State.reset.node State.reset.root State.reset.nnode ∧ State.reset.root = 0x1FF ∧
    TreeInv [(0x41, .leaf 0x41 5)] 0x41 1 ∧ (0x41 : Handle).toNat < 256 ∧
    256 ≤ sTree.root.toNat ∧ sTree.root ≠ 0x1FF ∧ LeadsTo sTree.node sTree.root [true] 0x42 ∧ [true] ≠ [] := by
  refine ⟨rfl, rfl, rfl, rfl, rfl, arenaAB_treeInv, .inl ⟨rfl, rfl, fun h => by simp [State.reset]⟩, rfl,
    lone_treeInv, by decide, by decide, by decide, ?_, by decide⟩
  exact .right (l := 0x41) (r := 0x42) (w := 2) (by decide) (.here 0x42)

theorem test_witness_CodesArePrefixFree :
    sFreq.fault = false ∧ sFreq.pact = false ∧ sFreq.dact = false ∧ freqSum sFreq.freq < 2 ^ 32 ∧ sFreq.freqAt 0x41 ≠ 0 := by
  decide +kernel

/-- The bound is met by two keys. -/
theorem test_witness_CodeLengthBound :
    sTree.fault = false ∧ TreeInv sTree.node sTree.root sTree.nnode ∧
    after (exec .assign sTree) = some { sCode with responses := [⟨.ok, 2⟩] } ∧ sCode.fault = false ∧ sCode.codeAt 0x41 ≠ [] ∧
    2 ≤ sCode.nsym.toNat := by
  refine ⟨rfl, arenaAB_treeInv, by decide +kernel, rfl, by decide, by decide⟩

/-- V12's table: four keys, frequencies 4, 3, 2, 1. -/
def freqV12 : Cells 8 Count := [(0x61, 4), (0x62, 3), (0x63, 2), (0x64, 1)]

/-- A prefix-free code for V2's keys. -/
theorem twoKeys_prefixFree : PrefixFreeOnKeys sFreq.freq (fun b => if b = 0x41 then [true] else [false]) := by
  have key (a : Byte) (h : readFreq sFreq.freq a ≠ 0) : a = 0x41 ∨ a = 0x42 := by revert a; decide +kernel
  intro a b hab ha hb
  rcases key a ha with rfl | rfl <;> rcases key b hb with rfl | rfl
  · exact absurd rfl hab
  · decide
  · decide
  · exact absurd rfl hab

theorem test_witness_CodesAreOptimal :
    freqSum sFreq.freq < 2 ^ 32 ∧ 2 ≤ keyCount sFreq.freq ∧
    PrefixFreeOnKeys sFreq.freq (fun b => if b = 0x41 then [true] else [false]) ∧
    freqSum freqV12 < 2 ^ 32 ∧ 2 ≤ keyCount freqV12 ∧
    (readFreq freqV12 0x64).toNat < (readFreq freqV12 0x61).toNat ∧ readFreq freqV12 0x64 ≠ 0 := by
  refine ⟨by decide +kernel, by decide +kernel, twoKeys_prefixFree, by decide +kernel, by decide +kernel, by decide, by decide⟩

theorem test_witness_EveryTieBreakIsPrefixFree : freqSum [(0x41, 5)] < 2 ^ 32 ∧ 1 ≤ keyCount [(0x41, 5)] := by decide +kernel

/-- Another tie-break than this hardware's: among equal weights the greater handle first. -/
theorem test_witness_EveryTieBreakIsOptimal :
    RefinesWeight (fun x y => decide (x.weight < y.weight) || (x.weight == y.weight && decide (y.handle < x.handle))) ∧
    freqSum sFreq.freq < 2 ^ 32 ∧ 2 ≤ keyCount sFreq.freq ∧
    PrefixFreeOnKeys sFreq.freq (fun b => if b = 0x41 then [true] else [false]) := by
  refine ⟨fun x y h => ?_, by decide +kernel, by decide +kernel, twoKeys_prefixFree⟩
  have h' : ¬ y.weight < x.weight := by bv_omega
  have hne : y.weight ≠ x.weight := by bv_omega
  simp [h, h', hne]

/-! ### Code table commands -/

theorem test_witness_ClenRule : sT.fault = false ∧ (sT.codeAt 0x42).length = 3 := by decide

/-- The index at the length and just below it. -/
theorem test_witness_CbitRule :
    sT.fault = false ∧ (sT.codeAt 0x42).length ≤ (3 : Byte).toNat ∧ (2 : Byte).toNat < (sT.codeAt 0x42).length := by decide

theorem test_witness_CbeginRule :
    (sLoad 0x41 []).lact = true ∧ sT.lact = false ∧ sT.fault = false ∧ sT.codeAt 0x41 ≠ [] ∧ sT.codeAt 0x45 = [] := by decide

/-- No open load; 255 bits and 254 bits loaded. -/
theorem test_witness_CpushRule :
    State.reset.fault = false ∧ State.reset.lact = false ∧ (sLoad 0x41 (List.replicate 255 false)).lact = true ∧
    (sLoad 0x41 (List.replicate 255 false)).ldbuf.length = 255 ∧
    (sLoad 0x41 (List.replicate 254 false)).ldbuf.length ≠ 255 := by decide +kernel

/-- A load for 'B' beside some code table. -/
def sLoadB (bits : Bits) (c : Cells 8 Bits) : State := { sLoad 0x42 bits with code := c }

/-- Each refusal; the empty code; the double entry; V73's least conflict, with every byte value below it free of one; a
load that passes. -/
theorem test_witness_CendRule :
    State.reset.lact = false ∧ ({ sLoad 0x41 [] with pact := true } : State).pact = true ∧
    ({ sLoad 0x41 [] with dact := true } : State).dact = true ∧
    (sLoad 0x42 []).lact = true ∧ (sLoad 0x42 []).pact = false ∧ (sLoad 0x42 []).dact = false ∧ (sLoad 0x42 []).ldbuf = [] ∧
    (sLoadB [true] codesAB).ldbuf ≠ [] ∧ (sLoadB [true] codesAB).codeAt (sLoadB [true] codesAB).ldsym ≠ [] ∧
    (let s := sLoadB [true] [(0x41, [true, true]), (0x43, [true, false])]
     s.ldbuf ≠ [] ∧ s.codeAt s.ldsym = [] ∧ s.codeAt 0x41 ≠ [] ∧ s.ldbuf <+: s.codeAt 0x41 ∧
     (∀ u : Byte, u < 0x41 → s.codeAt u = [] ∨ (¬ s.codeAt u <+: s.ldbuf ∧ ¬ s.ldbuf <+: s.codeAt u))) ∧
    (let s := sLoadB [true, false] [(0x41, [false])]
     s.ldbuf ≠ [] ∧ s.codeAt s.ldsym = [] ∧
     (∀ t : Byte, s.codeAt t = [] ∨ (¬ s.codeAt t <+: s.ldbuf ∧ ¬ s.ldbuf <+: s.codeAt t))) := by decide +kernel

/-! ### The packer -/

/-- No code; one byte too many; the last byte that fits. -/
theorem test_witness_PackRule :
    sT.fault = false ∧ sT.codeAt 0x45 = [] ∧ sT.codeAt 0x42 ≠ [] ∧
    2 ^ 32 - 1 < (0xFFFFFFFF : Count).toNat + ([true, true, true, true, true] ++ sT.codeAt 0x42).length / 8 ∧
    (0xFFFFFFFE : Count).toNat + ([true, true, true, true, true] ++ sT.codeAt 0x42).length / 8 ≤ 2 ^ 32 - 1 := by decide

/-- The neighbours of '0' and '1'; V44's states at the limit and one below it; six pending bits. -/
theorem test_witness_PchrRule :
    (0x2F : Byte) ≠ 0x30 ∧ (0x2F : Byte) ≠ 0x31 ∧ (0x32 : Byte) ≠ 0x31 ∧
    (sPack (List.replicate 7 true) 7 0xFFFFFFFF).fault = false ∧ (sPack (List.replicate 7 true) 7 0xFFFFFFFF).acc.length = 7 ∧
    (sPack (List.replicate 7 true) 7 0xFFFFFFFF).outcnt.toNat = 2 ^ 32 - 1 ∧
    (sPack (List.replicate 6 true) 6 0xFFFFFFFF).acc.length < 7 ∧
    (sPack (List.replicate 7 true) 7 0xFFFFFFFE).outcnt.toNat < 2 ^ 32 - 1 := by decide

theorem test_witness_PflushRule :
    (sPack [] 0 0xFFFFFFFF).nacc.toNat = (sPack [] 0 0xFFFFFFFF).acc.length ∧ (sPack [] 0 0xFFFFFFFF).acc = [] ∧
    (sPack [true] 1 0xFFFFFFFF).nacc.toNat = (sPack [true] 1 0xFFFFFFFF).acc.length ∧ (sPack [true] 1 0xFFFFFFFF).acc ≠ [] ∧
    (sPack [true] 1 0xFFFFFFFF).outcnt.toNat = 2 ^ 32 - 1 ∧ (sPack [true] 1 0xFFFFFFFE).outcnt.toNat < 2 ^ 32 - 1 ∧
    (sPack [true] 1 0xFFFFFFFF).fault = false := by decide

/-- V45: `PACK` and `PCHR` in one run. -/
theorem test_witness_PackingRun :
    (∀ i ∈ [Instr.pack 0x42, .pchr 0x31, .pack 0x41], bitsAccepted sCode.code i ≠ none) ∧
    [true, true, false] = [Instr.pack 0x42, .pchr 0x31, .pack 0x41].flatMap (fun i => (bitsAccepted sCode.code i).getD []) ∧
    sCode.fault = false ∧ sCode.acc = [] ∧ sCode.nacc = 0 ∧
    (0xFFFFFFFE : Count).toNat + ([true, true, false].length + 7) / 8 ≤ 2 ^ 32 - 1 := by decide

/-! ### The decoder -/

theorem test_witness_DbeginRule : (sDec 5 0 0 []).dact = true ∧ sT.dact = false ∧ sT.fault = false := by decide

theorem codesT_B : LeastWithCode codesT [true, true, false] 0x42 := by
  unfold LeastWithCode; decide +kernel

theorem codesT_R : LeastWithCode codesT [true, true, true] 0x52 := by
  unfold LeastWithCode; decide +kernel

theorem codesT_inner : (∀ u, readCode codesT u ≠ [true]) ∧ (∀ u, readCode codesT u ≠ [true, true]) := by decide +kernel

/-- V53's second byte: "11" was read, the next bit completes 'R', seven pad bits. -/
theorem reads_R : Reads codesT 1 [true, true] (bitsOfByte 0x80) 0 [] [0x52] :=
  .leaf codesT_R (.pad (.pad (.pad (.pad (.pad (.pad (.pad (.done 0 []))))))))

/-- V49's third byte up to the offending bit: 'B' is complete, and bit 4 is 1. -/
theorem reads_B : Reads codesT 1 [] ((bitsOfByte 0xDC).take (7 - 4)) 0 [] [0x42] :=
  .inner (t := 0x42) codesT_inner.1 (by decide) (.inner (t := 0x42) codesT_inner.2 (by decide) (.leaf codesT_B (.done 0 [])))

/-- The lone-symbol table of V54 to V60. -/
def codesLone : Cells 8 Bits := [(0x41, [false])]

theorem codesLone_A : LeastWithCode codesLone [false] 0x41 := by
  unfold LeastWithCode; decide +kernel

/-- V55 up to the offending bit: two symbols, and bit 5 is 1. -/
theorem reads_AA : Reads codesLone 3 [] ((bitsOfByte 0x20).take (7 - 5)) 1 [] [0x41, 0x41] :=
  .leaf codesLone_A (.leaf codesLone_A (.done 1 []))

/-- The three checks, the last byte that `DINCNT` can count, and each of the three outcomes of the bits. -/
theorem test_witness_DbyteRule :
    sT.dact = false ∧ (sDec 0 11 3 []).dact = true ∧ (sDec 0 11 3 []).drem = 0 ∧
    (sDec 1 0 0xFFFFFFFF []).drem ≠ 0 ∧ (sDec 1 0 0xFFFFFFFF []).dincnt.toNat = 2 ^ 32 - 1 ∧
    (sDec 1 0 0xFFFFFFFE []).dincnt.toNat ≠ 2 ^ 32 - 1 ∧
    Reads codesT (sDec 1 2 1 [true, true]).drem.toNat (sDec 1 2 1 [true, true]).path (bitsOfByte 0x80) 0 [] [0x52] ∧
    (Reads codesT (sDec 1 8 2 []).drem.toNat (sDec 1 8 2 []).path ((bitsOfByte 0xDC).take (7 - 4)) 0 [] [0x42] ∧
      (0xDC : Byte).getLsbD 4 = true) ∧
    (Reads codesLone 3 [] ((bitsOfByte 0x20).take (7 - 5)) (0 + 1) [] [0x41, 0x41] ∧
      NoBranch codesLone ([] ++ [(0x20 : Byte).getLsbD 5])) := by
  refine ⟨rfl, rfl, rfl, by decide, by decide, by decide, reads_R, ⟨reads_B, by decide⟩, reads_AA, ?_⟩
  unfold NoBranch; decide +kernel

theorem test_witness_DendRule :
    sT.dact = false ∧ (sDec 3 8 2 []).dact = true ∧ (sDec 3 8 2 []).drem ≠ 0 ∧ (sDec 0 11 3 []).dact = true ∧
    (sDec 0 11 3 []).drem = 0 ∧ (sDec 0 11 3 []).fault = false := by decide

/-- V54: three symbols from one byte. -/
theorem test_witness_DecodeStopsAtCount :
    ∃ u, execAll (decodeCommands 3 [0x00]) { State.reset with code := codesLone, nsym := 1 } = .next u ∧ u.fault = false :=
  ⟨_, rfl, rfl⟩

/-- V54 for the run, V55 for the 1 bit. -/
theorem test_witness_LoneSymbolTable :
    readCode codesLone 0x41 = [false] ∧ (∀ b', b' ≠ 0x41 → readCode codesLone b' = []) ∧
    (let s : State := { State.reset with code := codesLone, nsym := 1, dact := true, drem := 3 }
     s.fault = false ∧ s.dact = true ∧ s.dincnt.toNat ≠ 2 ^ 32 - 1 ∧ s.path = [] ∧ 7 - 5 < s.drem.toNat) ∧
    (∀ j, 5 < j → j < 8 → (0x20 : Byte).getLsbD j = false) ∧ (0x20 : Byte).getLsbD 5 = true := by
  refine ⟨by decide, by decide +kernel, by decide, fun j h h' => ?_, by decide⟩
  obtain rfl | rfl : j = 6 ∨ j = 7 := by omega
  all_goals decide

theorem codesAB_key (b : Byte) (h : readCode codesAB b ≠ []) : b = 0x41 ∨ b = 0x42 := by
  revert b; decide +kernel

theorem codesAB_prefixFree : PrefixFree codesAB := by
  intro a b hab ha hb
  rcases codesAB_key a ha with rfl | rfl <;> rcases codesAB_key b hb with rfl | rfl
  · exact absurd rfl hab
  · decide
  · decide
  · exact absurd rfl hab

/-- V38's text "BABAABAB", with the counter at the last value it fits. -/
theorem test_witness_PackThenDecode :
    sCode.fault = false ∧ sCode.dact = false ∧ sCode.acc = [] ∧ sCode.nacc = 0 ∧ PrefixFree sCode.code ∧
    (let x : List Byte := [0x42, 0x41, 0x42, 0x41, 0x41, 0x42, 0x41, 0x42]
     (∀ b ∈ x, sCode.codeAt b ≠ []) ∧ x.length < 2 ^ 32 ∧
     (0xFFFFFFFE : Count).toNat + ((x.map fun b => (sCode.codeAt b).length).sum + 7) / 8 ≤ 2 ^ 32 - 1) := by
  refine ⟨rfl, rfl, rfl, rfl, codesAB_prefixFree, by decide⟩

theorem test_witness_RoundTrip : ([0x41, 0x42] : List Byte).length < 2 ^ 32 := by decide

/-! ### Faults and modes -/

theorem test_witness_FaultEntryIsPrecise :
    (withWord sT 0x2100000001FF).fault = false ∧ got State.fault (step (withWord sT 0x2100000001FF)) = some true := by decide

theorem test_witness_FaultsOfEachCommand :
    sT.fault = false ∧ got State.fault (exec (.nwgt 511) sT) = some true ∧ got State.err (exec (.nwgt 511) sT) = some .range := by
  decide

/-- The two exits; the events that are none: a command that is aborted, a legal `CSRR`, an illegal word, and nothing. -/
theorem test_witness_FirstFaultIsLatched :
    sFault.fault = true ∧ ({ sFault with pending := [.reset] } : State).pending = .reset :: [] ∧
    (withWord sFault 0x010000000000).pending = .command 0x010000000000 :: [] ∧ decode 0x010000000000 = .ok .clr ∧
    decode 0x300000000000 ≠ .ok .clr ∧ decode 0x020000000001 ≠ .ok .clr ∧ decode 0xFFFFFFFFFFFF ≠ .ok .clr ∧
    sFault.pending = [] ∧ (Instr.csrr 1).opcode = .csrr := by decide

/-- A mode that refuses a command, one that lets it complete, and one in which it faults for another reason. -/
theorem test_witness_ModeTable :
    modeNeeds .dend sT.modes = false ∧ got State.fault (exec .dend (sDec 0 11 3 [])) = some false ∧
    got State.fault (exec .dend (sDec 3 8 2 [])) = some true := by decide

theorem test_witness_ReadCommands :
    (Instr.clen 0x42).opcode ∈ [Opcode.nop, .csrr, .fget, .nwgt, .nlnk, .clen, .cbit] ∧
    after (exec (.clen 0x42) sT) = some { sT with responses := sT.responses ++ [{ rc := .ok, data := 3 }] } := by decide

/-- `DBEGIN` with the largest count, and a byte of that decode. -/
theorem test_witness_DecodedAndRemainingAddUp :
    got State.fault (exec (.dbegin 0xFFFFFFFF) sT) = some false ∧
    (sDec 0xFFFFFFFE 1 1 []).dact = true ∧ (sDec 0xFFFFFFFE 1 1 []).dcnt.toNat + (sDec 0xFFFFFFFE 1 1 []).drem.toNat < 2 ^ 32 ∧
    got State.dact (exec (.dbyte 0x00) (sDec 0xFFFFFFFE 1 1 [])) = some true := by decide +kernel

theorem test_witness_EmissionBounds :
    (sPack (List.replicate 7 true) 7 0).acc.length ≤ 7 ∧ (∀ b, (sT.codeAt b).length ≤ 255) ∧
    got State.out (exec (.pchr 0x31) (sPack (List.replicate 7 true) 7 0)) = some [0xFF] ∧
    got State.symout (exec (.dbyte 0x00) (sDec 8 0 0 [])) = some (List.replicate 8 0x41) := by decide +kernel

/-! ### The invariant -/

/-- V2's tables, one pending bit, an open decode in the middle of nothing and an open load. -/
def sBusy : State :=
  { sCode with
    acc := [true], nacc := 1, pact := true, dact := true, drem := 8, dcnt := 1, dincnt := 1, symout := [0x41], lact := true
    ldsym := 0x43, ldbuf := [true, true], pending := [.command 0x51A500000000] }

/-- A state in the middle of every run at once meets the whole invariant, and its next step decodes V68's byte. -/
theorem test_witness_Inv :
    Inv sBusy ∧ got State.symout (step sBusy) = some [0x41, 0x42, 0x41, 0x42, 0x41, 0x41, 0x42, 0x41, 0x42] := by
  refine ⟨⟨⟨by decide, by decide, by decide, by decide⟩, ⟨by decide +kernel, by decide +kernel, codesAB_prefixFree⟩,
    arenaAB_treeInv, ⟨by decide, by decide, ?_⟩, ⟨.inl rfl, by decide, by decide, by decide, by decide⟩, ⟨by decide⟩,
    ⟨by decide, by decide⟩⟩, ?_⟩
  · decide
  · decide +kernel

end Sys2Proof.Tests
end

/-! Proofs of the family 00_scope.md: what a step does with the host's next word (O7), and that from a state of the
invariant it always answers a next state (O58). -/

namespace Sys2Proof.Machine

/-! ## A step by the host's next event -/

theorem step_idle {s : State} (h : s.pending = []) : step s = .next s := by
  simp only [step, takeEvent, h]

theorem step_reset {s : State} {es : List HostEvent} (h : s.pending = .reset :: es) :
    step s = .next (returnToReset { s with pending := es }) := by
  simp only [step, takeEvent, h]
  rfl

/-- A step with a word in front of the host's events issues that word, the events behind it left. -/
theorem step_command {s : State} {w : CmdWord} {es : List HostEvent} (h : s.pending = .command w :: es) :
    step s = issue w { s with pending := es } := by
  simp only [step, takeEvent, h]
  rfl

theorem issue_legal {w : CmdWord} {i : Instr} (s : State) (h : decode w = .ok i) : issue w s = exec i s := by
  simp only [issue, h]

theorem issue_illegal {w : CmdWord} {e : Illegal} (s : State) (h : decode w = .error e) :
    issue w s = illegalWord w s := by
  simp only [issue, h]

/-- Settles O7: the word is taken from the events, decoded, and the command executed. -/
theorem stepRunsDecodedCommand : Obligations.StepRunsDecodedCommand := by
  intro s w es i hp hd
  rw [step_command hp, issue_legal _ hd]

/-! ## Outcomes that are a next state -/

/-- The outcome is a next state: neither the model's fault nor a refusal. -/
def Answers (r : Result) : Prop :=
  ∃ t, r = .next t

theorem answers_respond (d : Count) (s : State) : Answers (respond d s) := ⟨_, respond_eq s d⟩

theorem answers_takeFault (head : BitVec 16) (e : ResultCode) (info : Count) (s : State) :
    Answers (takeFault head e info s) := ⟨_, takeFault_eq s head e info⟩

theorem answers_raise (i : Instr) (e : ResultCode) (info : Count) (s : State) : Answers (raise i e info s) :=
  ⟨_, raise_eq s i e info⟩

theorem answers_raiseSeq (i : Instr) (s : State) : Answers (raiseSeq i s) := ⟨_, raiseSeq_eq s i⟩

theorem answers_ite {p : Prop} [Decidable p] {r r' : Result} (h : Answers r) (h' : Answers r') :
    Answers (if p then r else r') := by
  split
  · exact h
  · exact h'

/-- The common check of rule R231 answers, or leaves it to the command's rule. -/
theorem answers_unlessFaulted {s : State} {rule : Result} (h : Answers rule) : Answers (unlessFaulted s rule) :=
  answers_ite ⟨_, abort_eq s⟩ h

theorem answers_emitBytes (i : Instr) (bytes : List Byte) (rest : Bits) (active : Bool) (s : State) :
    Answers (emitBytes i bytes rest active s) :=
  answers_ite (answers_raise ..) (answers_respond ..)

theorem answers_acceptBits (i : Instr) (bits : Bits) (s : State) : Answers (acceptBits i bits s) :=
  answers_emitBytes ..

theorem answers_illegalWord (w : CmdWord) (s : State) : Answers (illegalWord w s) :=
  answers_unlessFaulted (answers_takeFault ..)

/-! ## Every command but `ASSIGN` answers in every state -/

theorem execCbit_answers (sym pos : Byte) (s : State) : Answers (execCbit sym pos s) := by
  refine answers_unlessFaulted ?_
  split
  · exact answers_raise ..
  · exact answers_respond ..

theorem execCend_answers (s : State) : Answers (execCend s) := by
  refine answers_unlessFaulted (answers_ite (answers_raiseSeq ..) (answers_ite (answers_raise ..)
    (answers_ite (answers_raise ..) ?_)))
  split
  · exact answers_raise ..
  · exact answers_respond ..

theorem execPchr_answers (ch : Byte) (s : State) : Answers (execPchr ch s) := by
  refine answers_unlessFaulted ?_
  split
  · exact answers_raise ..
  · exact answers_acceptBits ..

theorem execDbyte_answers (v : Byte) (s : State) : Answers (execDbyte v s) := by
  refine answers_unlessFaulted (answers_ite (answers_raiseSeq ..) (answers_ite (answers_raise ..)
    (answers_ite (answers_raise ..) ?_)))
  split
  · exact answers_raise ..
  · exact answers_respond ..

/-- No state makes a command other than `ASSIGN` stop. -/
theorem exec_answers_of_ne_assign (i : Instr) (s : State) (hi : i ≠ .assign) : Answers (exec i s) := by
  cases i with
  | assign => exact absurd rfl hi
  | nop => exact answers_unlessFaulted (answers_respond ..)
  | clr => exact answers_respond ..
  | csrr idx => exact answers_respond ..
  | fset sym cnt => exact answers_unlessFaulted (answers_respond ..)
  | fcnt sym => exact answers_unlessFaulted (answers_ite (answers_raise ..) (answers_respond ..))
  | fget sym => exact answers_unlessFaulted (answers_respond ..)
  | build => exact answers_unlessFaulted (answers_ite (answers_raise ..) (answers_respond ..))
  | nwgt h => exact answers_unlessFaulted (answers_ite (answers_raise ..) (answers_respond ..))
  | nlnk h => exact answers_unlessFaulted (answers_ite (answers_raise ..) (answers_respond ..))
  | clen sym => exact answers_unlessFaulted (answers_respond ..)
  | cbit sym pos => exact execCbit_answers sym pos s
  | cbegin sym =>
    exact answers_unlessFaulted
      (answers_ite (answers_raiseSeq ..) (answers_ite (answers_raise ..) (answers_respond ..)))
  | cpush bit =>
    exact answers_unlessFaulted
      (answers_ite (answers_raiseSeq ..) (answers_ite (answers_raise ..) (answers_respond ..)))
  | cend => exact execCend_answers s
  | pack sym => exact answers_unlessFaulted (answers_ite (answers_raise ..) (answers_acceptBits ..))
  | pchr ch => exact execPchr_answers ch s
  | pflush => exact answers_unlessFaulted (answers_emitBytes ..)
  | dbegin n => exact answers_unlessFaulted (answers_ite (answers_raiseSeq ..) (answers_respond ..))
  | dbyte v => exact execDbyte_answers v s
  | dend =>
    exact answers_unlessFaulted
      (answers_ite (answers_raiseSeq ..) (answers_ite (answers_raise ..) (answers_respond ..)))

/-! ## The walk of `ASSIGN` on a tree of rule R26 -/

theorem isLeafHandle_iff (h : Handle) : isLeafHandle h = true ↔ h.toNat < 256 := by
  simp [isLeafHandle]

@[simp] theorem allSyms_length : allSyms.length = 256 := by simp [allSyms]

section Tree
variable {a : Cells 9 Node} {root : Handle} {nnode : BitVec 9} {n : Nat} (ht : FullTree a root nnode n)
include ht

/-- There are at most as many leaves as symbols. -/
theorem FullTree.le_256 : n ≤ 256 := by
  rw [← ht.count, ← allSyms_length]
  exact List.countP_le_length

/-- The root's handle leaves room for the walk's bound: the internal handles up to it are at most 255. -/
theorem FullTree.root_lt : root.toNat < 256 + Config.maxLen := by
  have hn := ht.le_256
  have hr := ht.root_eq
  split at hr <;> simp only [Config.maxLen] <;> omega

theorem FullTree.root_valid : readNode a root ≠ .invalid := by
  have hr := ht.root_eq
  split at hr
  · exact hr.2
  · have hpos := ht.pos
    have hint := ht.internals root (by omega)
    rw [if_pos (by omega)] at hint
    obtain ⟨w, l, r, hnode⟩ := hint
    simp [hnode]

/-- A valid node of the internal range is an internal node. -/
theorem FullTree.internal_of_valid {h : Handle} (h256 : 256 ≤ h.toNat) (hv : readNode a h ≠ .invalid) :
    ∃ w l r, readNode a h = .internal w l r := by
  have hint := ht.internals h h256
  split at hint
  · exact hint
  · exact absurd hint hv

/-- The internal nodes on a path have falling handles, so the walk's bound is not passed below a handle `256 + fuel`. -/
theorem FullTree.walk_some (label : Bool) (fuel : Nat) (h : Handle) (p : Bits) (c : Cells 8 Bits)
    (hv : readNode a h ≠ .invalid) (hlt : h.toNat < 256 + fuel) : ∃ c', walk label a fuel h p c = some c' := by
  induction fuel generalizing h p c with
  | zero => exact ⟨_, if_pos ((isLeafHandle_iff h).mpr hlt)⟩
  | succ fuel ih =>
    by_cases hleaf : isLeafHandle h = true
    · exact ⟨_, if_pos hleaf⟩
    · have h256 : 256 ≤ h.toNat := by simpa [isLeafHandle_iff] using hleaf
      obtain ⟨w, l, r, hnode⟩ := ht.internal_of_valid h256 hv
      obtain ⟨-, hl, hr, hlh, hrh, -⟩ := ht.children h w l r hnode
      have hllt : l.toNat < 256 + fuel := by bv_omega
      have hrlt : r.toNat < 256 + fuel := by bv_omega
      obtain ⟨cl, hcl⟩ := ih l (p ++ [label]) c hl hllt
      obtain ⟨cr, hcr⟩ := ih r (p ++ [!label]) cl hr hrlt
      exact ⟨cr, by simp [walk, hleaf, hnode, hcl, hcr]⟩

end Tree

/-- Every tree of rule R26 has a code table (rules R150 to R153), whatever the label of the left edge. -/
theorem TreeInv.codesOfTree_some {a : Cells 9 Node} {root : Handle} {nnode : BitVec 9} (h : TreeInv a root nnode)
    (label : Bool) : ∃ c, codesOfTree label a root = some c := by
  rcases h with hempty | ⟨n, hfull⟩
  · exact ⟨[], if_pos hempty.root_none⟩
  · unfold codesOfTree
    split
    · exact ⟨_, rfl⟩
    · split
      · exact ⟨_, rfl⟩
      · exact hfull.walk_some label _ root [] [] hfull.root_valid hfull.root_lt

theorem execAssign_answers (s : State) (h : TreeInv s.node s.root s.nnode) : Answers (execAssign s) := by
  obtain ⟨c, hc⟩ := h.codesOfTree_some Config.leftLabel
  refine answers_unlessFaulted (answers_ite (answers_raiseSeq ..) ?_)
  rw [hc]
  exact answers_respond ..

/-! ## Progress -/

theorem exec_answers (i : Instr) (s : State) (h : TreeInv s.node s.root s.nnode) : Answers (exec i s) := by
  by_cases hi : i = .assign
  · subst hi
    exact execAssign_answers s h
  · exact exec_answers_of_ne_assign i s hi

theorem issue_answers (w : CmdWord) (s : State) (h : TreeInv s.node s.root s.nnode) : Answers (issue w s) := by
  cases hd : decode w with
  | ok i =>
    rw [issue_legal s hd]
    exact exec_answers i s h
  | error e =>
    rw [issue_illegal s hd]
    exact answers_illegalWord w s

/-- Settles O58: only `ASSIGN` could stop, and on a tree of rule R26 its walk succeeds within its bound, because the
internal nodes on a path have falling handles, of which there are at most 255. -/
theorem stepNeverStops : Obligations.StepNeverStops := by
  intro s hs
  cases hp : s.pending with
  | nil => exact ⟨_, step_idle hp⟩
  | cons e es =>
    cases e with
    | reset => exact ⟨_, step_reset hp⟩
    | command w =>
      rw [step_command hp]
      exact issue_answers w _ hs.tree

end Sys2Proof.Machine

/-! Proofs of the family 10_state.md: the reset state (O11, O56), the registers that `CSRR` reads (O14), the counters of
an open decode (O54), and that every step keeps the invariant (O57). -/

namespace Sys2Proof.Machine

/-! ## The reset state (rule R49) -/

/-- Settles O11: each piece of state has its value in R49's table, and `CLR` and the reset event return to it. -/
theorem resetAndClrState : Obligations.ResetAndClrState := by
  refine ⟨readFreq_nil, readCode_nil, rfl, readNode_nil, rfl, rfl, rfl, rfl, rfl, rfl, rfl, rfl, rfl, rfl, rfl, rfl,
    rfl, rfl, rfl, rfl, rfl, rfl, rfl, rfl, ?_, ?_⟩
  · intro s
    exact respond_eq _ 0
  · intro s es hp
    rw [step_reset hp, returnToReset_eq]
    rfl

theorem presentCount_nil : presentCount [] = 0 := by decide +kernel

/-- The reset state of the block satisfies the invariant, whatever the host will do and has received. -/
theorem State.blockReset_inv (s : State) : Inv s.blockReset where
  files := ⟨rfl, rfl, rfl, by simp [blockReset, reset]⟩
  table := ⟨presentCount_nil.symm, fun b => by simp [blockReset, reset, codeAt],
    fun a _ _ ha => absurd (readCode_nil a) ha⟩
  tree := .inl ⟨rfl, rfl, readNode_nil⟩
  packer := ⟨Nat.zero_le 7, rfl, rfl⟩
  decoder := ⟨.inl rfl, fun _ => rfl, fun _ => rfl, Nat.two_pow_pos 32, Nat.le_refl 0⟩
  load := ⟨Nat.zero_le 255⟩
  faults := ⟨fun _ => ⟨rfl, rfl, rfl⟩, nofun⟩

/-- Settles O56: the files are empty, so are the tree and the table, and every register is 0. -/
theorem invAtReset : Obligations.InvAtReset :=
  State.reset.blockReset_inv

/-! ## The control and status registers (rules R30 to R44) -/

theorem execCsrr_eq (idx : Byte) (s : State) : exec (.csrr idx) s = .next (s.afterOk (s.csr idx)) := rfl

/-- `STATUS` as a number: the four flags at their weights (rule R30). -/
theorem State.status_eq (s : State) :
    s.status = BitVec.ofNat 32 (s.fault.toNat + 2 * s.pact.toNat + 4 * s.dact.toNat + 8 * s.lact.toNat) := by
  have hbits : ∀ a b c d : Bool, flagBit a 0 ||| flagBit b 1 ||| flagBit c 2 ||| flagBit d 3 =
      BitVec.ofNat 32 (a.toNat + 2 * b.toNat + 4 * c.toNat + 8 * d.toNat) := by decide
  exact hbits ..

/-- A field above a byte, put together by shift and or, is a sum. -/
theorem zext32_shift_or_byte {n : Nat} (hn : n ≤ 8) (x : BitVec n) (y : Byte) :
    zext32 x <<< 8 ||| zext32 y = BitVec.ofNat 32 (256 * x.toNat + y.toNat) := by
  have hx : x.toNat < 2 ^ 8 := Nat.lt_of_lt_of_le x.isLt (Nat.pow_le_pow_right (by decide) hn)
  have hy : y.toNat < 2 ^ 8 := y.isLt
  have hor : x.toNat <<< 8 ||| y.toNat = x.toNat <<< 8 + y.toNat := (Nat.shiftLeft_add_eq_or_of_lt hy _).symm
  apply BitVec.eq_of_toNat_eq
  simp only [zext32, BitVec.toNat_or, BitVec.toNat_shiftLeft, BitVec.toNat_setWidth, BitVec.toNat_ofNat]
  rw [Nat.mod_eq_of_lt (by omega), Nat.mod_eq_of_lt (by omega), Nat.mod_eq_of_lt (by omega), hor, Nat.shiftLeft_eq,
    Nat.mod_eq_of_lt (by omega)]
  omega

/-- The bits that a byte is filled up with are 0 (rule R38). -/
theorem byteOf_append_zeros (bits : Bits) (k : Nat) : byteOf (bits ++ List.replicate k false) = byteOf bits := by
  have hget (j : Nat) : (bits ++ List.replicate k false).getD j false = bits.getD j false := by
    by_cases hj : j < bits.length
    · exact List.getD_append _ _ _ _ hj
    · rw [List.getD_append_right _ _ _ _ (by omega), List.getD_eq_default bits false (by omega)]
      exact (List.getD_eq_getElem?_getD ..).trans (List.getElem?_getD_replicate_default_eq ..)
  simp only [byteOf, hget]

/-- `PACC` as a number (rule R38). -/
theorem State.pacc_eq (s : State) (v : Byte) (k : Nat) (hv : bitsOfByte v = s.acc ++ List.replicate k false) :
    s.pacc = BitVec.ofNat 32 (256 * s.nacc.toNat + v.toNat) := by
  have hbyte : byteOf s.acc = v := by rw [← byteOf_append_zeros s.acc k, ← hv, byteOf_bitsOfByte]
  rw [State.pacc, hbyte, zext32_shift_or_byte (by decide)]

theorem zext32_ofNat_byte {k : Nat} (hk : k ≤ 255) : zext32 (BitVec.ofNat 8 k) = BitVec.ofNat 32 k := by
  apply BitVec.eq_of_toNat_eq
  simp only [zext32, BitVec.toNat_setWidth, BitVec.toNat_ofNat]
  omega

/-- `LDINFO` as a number (rule R43). -/
theorem State.ldinfo_eq (s : State) (h : s.ldbuf.length ≤ 255) :
    s.ldinfo = BitVec.ofNat 32 (256 * s.ldsym.toNat + s.ldbuf.length) := by
  rw [State.ldinfo, zext32_shift_or_byte (by decide), BitVec.toNat_ofNat, Nat.mod_eq_of_lt (by omega)]

/-- A reserved index reads 0 (rule R44). -/
theorem State.csr_reserved (s : State) (idx : Byte) (h : 14 ≤ idx.toNat) : s.csr idx = 0 := by
  obtain ⟨k, hk⟩ := Nat.exists_eq_add_of_le' h
  simp only [State.csr, hk]

theorem encode_csrr (idx : Byte) : encode (.csrr idx) = 0x02#8 ++ 0x00#8 ++ 0x000000#24 ++ idx := by
  have hdata : idx.setWidth 32 = 0x000000#24 ++ idx := BitVec.setWidth_eq_append (by decide)
  change 0x02#8 ++ 0x00#8 ++ idx.setWidth 32 = _
  rw [hdata, BitVec.append_assoc (x₁ := 0x02#8 ++ 0x00#8), BitVec.cast_eq]

/-! ## Illegal `CSRR` words -/

/-- A word is its three fields put together (rule R80). -/
theorem RawCommand.word_ofWord (w : CmdWord) : (RawCommand.ofWord w).word = w := by
  have hhead : w.extractLsb' 40 8 ++ w.extractLsb' 32 8 = w.extractLsb' 32 16 :=
    BitVec.extractLsb'_append_extractLsb'_eq_extractLsb' rfl
  have hword : w.extractLsb' 32 16 ++ w.extractLsb' 0 32 = w.extractLsb' 0 48 :=
    BitVec.extractLsb'_append_extractLsb'_eq_extractLsb' rfl
  rw [RawCommand.word, RawCommand.ofWord, hhead, hword, BitVec.extractLsb'_eq_self]

/-- The must-be-zero bits of a `CSRR` word lie in its `sym` field and in `data[31:8]` (rule R83). -/
theorem and_csrrMustBeZero {w : CmdWord} (hsym : (RawCommand.ofWord w).sym = 0)
    (hdata : (RawCommand.ofWord w).data &&& Opcode.csrr.dataMustBeZero = 0) : w &&& 0x00FFFFFFFF00 = 0 := by
  have hmask : (0x00FFFFFFFF00 : CmdWord) = 0x00#8 ++ 0xFF#8 ++ Opcode.csrr.dataMustBeZero := by decide
  rw [← RawCommand.word_ofWord w, RawCommand.word, hsym, hmask, BitVec.and_append, BitVec.and_append, hdata,
    BitVec.and_zero]
  rfl

/-- Ill-formed fields are no command (rules R82, R85). -/
theorem RawCommand.decode_of_illFormed {r : RawCommand} (h : r.wellFormed = false) : ∃ e, r.decode = .error e := by
  unfold RawCommand.wellFormed at h
  unfold RawCommand.decode
  cases ho : Opcode.ofByte? r.op with
  | none => exact ⟨_, rfl⟩
  | some o =>
    rw [ho] at h
    by_cases hsym : !o.format.usesSym && r.sym != 0
    · exact ⟨_, if_pos hsym⟩
    · by_cases hdata : r.data &&& o.dataMustBeZero != 0
      · exact ⟨_, (if_neg hsym).trans (if_pos hdata)⟩
      · simp_all

/-- A word with the opcode of `CSRR` and a must-be-zero bit set is illegal (rule R85). -/
theorem decode_csrr_illegal {w : CmdWord} (hop : w.extractLsb' 40 8 = 0x02) (hmbz : w &&& 0x00FFFFFFFF00 ≠ 0) :
    ∃ e, decode w = .error e := by
  have hrow : Opcode.ofByte? (RawCommand.ofWord w).op = some .csrr := (congrArg Opcode.ofByte? hop).trans (by decide)
  apply RawCommand.decode_of_illFormed
  by_contra hwf
  simp only [RawCommand.wellFormed, hrow, Opcode.format, Format.usesSym, Bool.false_or, Bool.not_eq_false,
    Bool.and_eq_true, beq_iff_eq] at hwf
  exact hmbz (and_csrrMustBeZero hwf.1 hwf.2)

/-- Settles O14: each register by its equation, and an illegal word of `CSRR` through the decoder. -/
theorem csrrRule : Obligations.CsrrRule := by
  refine ⟨encode_csrr, fun s => ⟨?_, rfl, rfl, rfl, rfl, rfl, rfl, rfl, fun v _ hv => ?_, rfl, rfl, rfl,
    fun hpath => ?_, fun hbuf => ?_, fun idx hidx => ?_, fun idx => ⟨_, execCsrr_eq idx s⟩⟩,
    fun s w es hp hop hmbz => ?_⟩
  · rw [execCsrr_eq, ← s.status_eq]
    rfl
  · rw [execCsrr_eq, ← s.pacc_eq v _ hv]
    rfl
  · rw [execCsrr_eq, ← zext32_ofNat_byte hpath]
    rfl
  · rw [execCsrr_eq, ← s.ldinfo_eq hbuf]
    rfl
  · rw [execCsrr_eq, s.csr_reserved idx hidx]
  · obtain ⟨e, he⟩ := decode_csrr_illegal hop hmbz
    rw [step_command hp, issue_illegal _ he]
    exact ⟨fun hf => unlessFaulted_clear _ _ hf, fun hf => unlessFaulted_fault _ _ hf⟩

/-! ## The bits of a payload byte (rules R200, R202) -/

/-- What one bit can do: a pad bit, a bit that completes a code, or a bit that leads to an inner node. -/
theorem bitStep_ok_cases {c : Cells 8 Bits} {u u' : Unpack} {b : Bool} (h : bitStep c u b = .ok u') :
    (u.rem = 0 ∧ u' = u) ∨
    (u.rem ≠ 0 ∧ ∃ t, u' = { rem := u.rem - 1, cnt := u.cnt + 1, path := [], out := u.out ++ [t] }) ∨
    (u.rem ≠ 0 ∧ innerAt c (u.path ++ [b]) = true ∧ u' = { u with path := u.path ++ [b] }) := by
  unfold bitStep at h
  by_cases hrem : u.rem = 0
  · rw [if_pos hrem] at h
    split at h
    · cases h
    · cases h
      exact .inl ⟨hrem, rfl⟩
  · rw [if_neg hrem] at h
    simp only at h
    split at h
    · cases h
      exact .inr (.inl ⟨hrem, _, rfl⟩)
    · split at h
      · cases h
        exact .inr (.inr ⟨hrem, ‹_›, rfl⟩)
      · cases h

/-- A bit that fails is a pad bit that is 1, or has no branch in the implied tree. -/
theorem bitStep_error {c : Cells 8 Bits} {u : Unpack} {b : Bool} {e : ResultCode} (h : bitStep c u b = .error e) :
    e = .fmtPad ∨ e = .fmtNoCode := by
  unfold bitStep at h
  split at h
  · split at h
    · cases h
      exact .inl rfl
    · cases h
  · simp only at h
    split at h
    · cases h
    · split at h
      · cases h
      · cases h
        exact .inr rfl

/-- A property of the working values that every passing bit keeps is kept by a byte that passes. -/
theorem unpackBits_keeps {c : Cells 8 Bits} {P : Unpack → Prop}
    (hstep : ∀ {u u' b}, P u → bitStep c u b = .ok u' → P u') {v : Byte} {k : Nat} {u u' : Unpack} (hu : P u)
    (h : unpackBits c v k u = .ok u') : P u' := by
  induction k generalizing u with
  | zero =>
    cases h
    exact hu
  | succ k ih =>
    simp only [unpackBits] at h
    split at h
    · cases h
    · exact ih (hstep hu ‹_›) h

/-- A byte fails with a fault of one of its bits. -/
theorem unpackBits_error {c : Cells 8 Bits} {v : Byte} {k j : Nat} {u : Unpack} {e : ResultCode}
    (h : unpackBits c v k u = .error (e, j)) : e = .fmtPad ∨ e = .fmtNoCode := by
  induction k generalizing u with
  | zero => cases h
  | succ k ih =>
    simp only [unpackBits] at h
    split at h
    · cases h
      exact bitStep_error ‹_›
    · exact ih h

/-! ## What one command can do -/

/-- The state in which a completing command leaves the block, before the response, with the checks it has passed. -/
inductive Completes (s : State) : Instr → State → Prop where
  | read {i : Instr} (hi : i.opcode ∈ [Opcode.nop, .csrr, .fget, .nwgt, .nlnk, .clen, .cbit]) : Completes s i s
  | clr : Completes s .clr s.cleared
  | fset (sym : Byte) (cnt : Count) : Completes s (.fset sym cnt) (s.setFreq sym cnt)
  | fcnt (sym : Byte) (hroom : (s.freqAt sym).toNat ≠ Config.cntMax) :
    Completes s (.fcnt sym) (s.setFreq sym (s.freqAt sym + 1))
  | build (hsum : totalWeight s.freq < 2 ^ 32) :
    Completes s .build (s.setTree (finalBuilder candBefore s.freq).arena (finalBuilder candBefore s.freq).root
      (BitVec.ofNat 9 ((presentKeys s.freq).length + (finalBuilder candBefore s.freq).merges)))
  | assign {c : Cells 8 Bits} (hidle : s.runOpen = false) (hc : codesOfTree Config.leftLabel s.node s.root = some c) :
    Completes s .assign (s.setTable c (BitVec.ofNat 9 (presentCount c)))
  | cbegin (sym : Byte) (hlact : s.lact = false) (hfree : s.codeAt sym = []) :
    Completes s (.cbegin sym) ((s.setLoad sym []).setLact true)
  | cpush (bit : Bool) (hlact : s.lact = true) (hroom : s.ldbuf.length ≠ Config.maxLen) :
    Completes s (.cpush bit) (s.setLoad s.ldsym (s.ldbuf ++ [bit]))
  | cend (hlact : s.lact = true) (hidle : s.runOpen = false) (hbuf : s.ldbuf ≠ []) (hfree : s.codeAt s.ldsym = [])
    (hconf : conflicting s.code s.ldbuf = none) :
    Completes s .cend ((s.setTable (writeCode s.code s.ldsym s.ldbuf) (s.nsym + 1)).setLact false)
  | accept {i : Instr} {bits : Bits} {q : Nat} (hbits : bitsAccepted s.code i = some bits)
    (hq : q = (s.acc ++ bits).length / 8) (hroom : s.outcnt.toNat + q ≤ Config.cntMax) :
    Completes s i (((s.emitOut (bytesOf q (s.acc ++ bits))).setAcc ((s.acc ++ bits).drop (8 * q))).setPact true)
  | pflush (hroom : s.outcnt.toNat + (paddedByte s.acc s.nacc).length ≤ Config.cntMax) :
    Completes s .pflush (((s.emitOut (paddedByte s.acc s.nacc)).setAcc []).setPact false)
  | dbegin (n : Count) (hdact : s.dact = false) : Completes s (.dbegin n) ((s.setDecoder n 0 0 []).setDact true)
  | dbyte (v : Byte) {u : Unpack} (hdact : s.dact = true) (hrem : s.drem ≠ 0) (hroom : s.dincnt.toNat ≠ Config.cntMax)
    (hu : unpackBits s.code v 8 { rem := s.drem, cnt := s.dcnt, path := s.path, out := [] } = .ok u) :
    Completes s (.dbyte v) ((s.setDecoder u.rem u.cnt (s.dincnt + 1) u.path).emitSym u.out)
  | dend (hdact : s.dact = true) (hrem : s.drem = 0) : Completes s .dend (s.setDact false)

/-- The state after a command: the abort while `FAULT = 1`, fault entry with a fault of the command (rule R225), or
completion. -/
inductive Leaves (i : Instr) (s : State) : State → Prop where
  | aborted (hf : s.fault = true) : Leaves i s s.afterAbort
  | faulted {e : ResultCode} (he : e ∈ faultsOf i.opcode) (info : Count) : Leaves i s (s.afterFault i.head e info)
  | completed {u : State} (hu : Completes s i u) (d : Count) : Leaves i s (u.afterOk d)

/-- Every next state that the outcome answers has the property. -/
def Yields (P : State → Prop) (r : Result) : Prop :=
  ∀ t, r = .next t → P t

theorem yields_next {P : State → Prop} {s : State} (h : P s) : Yields P (.next s) := by
  intro t ht
  cases ht
  exact h

theorem yields_fault {P : State → Prop} (r : Fault) : Yields P (.fault r) := by
  intro t ht
  cases ht

theorem yields_ite {P : State → Prop} {p : Prop} [Decidable p] {r r' : Result} (h : p → Yields P r)
    (h' : ¬ p → Yields P r') : Yields P (if p then r else r') := by
  split
  · exact h ‹p›
  · exact h' ‹¬ p›

section Leaves
variable {i : Instr} {s : State}

theorem Completes.yields {u : State} {d : Count} (h : Completes s i u) : Yields (Leaves i s) (respond d u) :=
  yields_next (.completed h d)

/-- A command that only answers. -/
theorem yields_read (d : Count)
    (hi : i.opcode ∈ [Opcode.nop, .csrr, .fget, .nwgt, .nlnk, .clen, .cbit] := by simp [Instr.opcode]) :
    Yields (Leaves i s) (respond d s) :=
  (Completes.read hi).yields

theorem yields_raise {e : ResultCode} {info : Count} (he : e ∈ faultsOf i.opcode := by simp [faultsOf, Instr.opcode]) :
    Yields (Leaves i s) (raise i e info s) :=
  yields_next (.faulted he info)

theorem yields_raiseSeq (he : .seq ∈ faultsOf i.opcode := by simp [faultsOf, Instr.opcode]) :
    Yields (Leaves i s) (raiseSeq i s) :=
  yields_raise he

theorem yields_unlessFaulted {rule : Result} (h : Yields (Leaves i s) rule) :
    Yields (Leaves i s) (unlessFaulted s rule) :=
  yields_ite (fun hf => yields_next (.aborted hf)) fun _ => h

theorem yields_emitBytes {bytes : List Byte} {rest : Bits} {active : Bool}
    (h : s.outcnt.toNat + bytes.length ≤ Config.cntMax →
      Completes s i (((s.emitOut bytes).setAcc rest).setPact active))
    (he : .overflow ∈ faultsOf i.opcode := by simp [faultsOf, Instr.opcode]) :
    Yields (Leaves i s) (emitBytes i bytes rest active s) :=
  yields_ite (fun _ => yields_raise he) fun hroom => (h (Nat.le_of_not_lt hroom)).yields

theorem yields_acceptBits {bits : Bits} (hbits : bitsAccepted s.code i = some bits)
    (he : .overflow ∈ faultsOf i.opcode := by simp [faultsOf, Instr.opcode]) :
    Yields (Leaves i s) (acceptBits i bits s) :=
  yields_emitBytes (fun hroom => .accept hbits rfl (by rwa [bytesOf_length] at hroom)) he

end Leaves

section Commands
variable (s : State)

theorem execFcnt_leaves (sym : Byte) : Yields (Leaves (.fcnt sym) s) (execFcnt sym s) :=
  yields_unlessFaulted <| yields_ite (fun _ => yields_raise) fun hroom => (Completes.fcnt sym hroom).yields

theorem execBuild_leaves : Yields (Leaves .build s) (execBuild s) :=
  yields_unlessFaulted <| yields_ite (fun _ => yields_raise) fun hsum =>
    (Completes.build (Nat.lt_of_not_le hsum)).yields

theorem execNwgt_leaves (h : Handle) : Yields (Leaves (.nwgt h) s) (execNwgt h s) :=
  yields_unlessFaulted <| yields_ite (fun _ => yields_raise) fun _ => yields_read _

theorem execNlnk_leaves (h : Handle) : Yields (Leaves (.nlnk h) s) (execNlnk h s) :=
  yields_unlessFaulted <| yields_ite (fun _ => yields_raise) fun _ => yields_read _

theorem execAssign_leaves : Yields (Leaves .assign s) (execAssign s) := by
  refine yields_unlessFaulted <| yields_ite (fun _ => yields_raiseSeq) fun hidle => ?_
  split
  · exact yields_fault _
  · exact (Completes.assign (Bool.eq_false_of_not_eq_true hidle) ‹_›).yields

theorem execCbit_leaves (sym pos : Byte) : Yields (Leaves (.cbit sym pos) s) (execCbit sym pos s) := by
  refine yields_unlessFaulted ?_
  split
  · exact yields_raise
  · exact yields_read _

theorem execCbegin_leaves (sym : Byte) : Yields (Leaves (.cbegin sym) s) (execCbegin sym s) :=
  yields_unlessFaulted <| yields_ite (fun _ => yields_raiseSeq) fun hlact =>
    yields_ite (fun _ => yields_raise) fun hfree =>
      (Completes.cbegin sym (Bool.eq_false_of_not_eq_true hlact) (not_not.mp hfree)).yields

theorem execCpush_leaves (bit : Bool) : Yields (Leaves (.cpush bit) s) (execCpush bit s) :=
  yields_unlessFaulted <| yields_ite (fun _ => yields_raiseSeq) fun hlact =>
    yields_ite (fun _ => yields_raise) fun hroom =>
      (Completes.cpush bit (by simpa [State.cpushRefused] using hlact) hroom).yields

theorem execCend_leaves : Yields (Leaves .cend s) (execCend s) := by
  refine yields_unlessFaulted <| yields_ite (fun _ => yields_raiseSeq) fun hseq =>
    yields_ite (fun _ => yields_raise) fun hbuf =>
      yields_ite (fun _ => yields_raise) fun hfree => ?_
  obtain ⟨hlact, hidle⟩ : s.lact = true ∧ s.runOpen = false := by simpa [State.cendRefused] using hseq
  split
  · exact yields_raise
  · exact (Completes.cend hlact hidle hbuf (not_not.mp hfree) ‹_›).yields

theorem execPack_leaves (sym : Byte) : Yields (Leaves (.pack sym) s) (execPack sym s) :=
  yields_unlessFaulted <| yields_ite (fun _ => yields_raise) fun hcode => yields_acceptBits (if_neg hcode)

/-- The bit of a character is the bit it adds to the logical stream (rule R182). -/
theorem bitsAccepted_pchr (c : Cells 8 Bits) (ch : Byte) :
    bitsAccepted c (.pchr ch) = (charBit ch).map fun b => [b] := by
  simp only [bitsAccepted, charBit, Config.charZero, Config.charOne]
  split
  · rfl
  · split <;> rfl

theorem execPchr_leaves (ch : Byte) : Yields (Leaves (.pchr ch) s) (execPchr ch s) := by
  refine yields_unlessFaulted ?_
  cases hb : charBit ch with
  | none => exact yields_raise
  | some b => exact yields_acceptBits (by simp [bitsAccepted_pchr, hb])

theorem execPflush_leaves : Yields (Leaves .pflush s) (execPflush s) :=
  yields_unlessFaulted <| yields_emitBytes .pflush

theorem execDbegin_leaves (n : Count) : Yields (Leaves (.dbegin n) s) (execDbegin n s) :=
  yields_unlessFaulted <| yields_ite (fun _ => yields_raiseSeq) fun hdact =>
    (Completes.dbegin n (Bool.eq_false_of_not_eq_true hdact)).yields

theorem execDbyte_leaves (v : Byte) : Yields (Leaves (.dbyte v) s) (execDbyte v s) := by
  refine yields_unlessFaulted <| yields_ite (fun _ => yields_raiseSeq) fun hdact =>
    yields_ite (fun _ => yields_raise) fun hrem =>
      yields_ite (fun _ => yields_raise) fun hroom => ?_
  split
  · obtain rfl | rfl := unpackBits_error ‹_› <;> exact yields_raise
  · exact (Completes.dbyte v (by simpa [State.decodeRefused] using hdact) hrem hroom ‹_›).yields

theorem execDend_leaves : Yields (Leaves .dend s) (execDend s) :=
  yields_unlessFaulted <| yields_ite (fun _ => yields_raiseSeq) fun hdact =>
    yields_ite (fun _ => yields_raise) fun hrem =>
      (Completes.dend (by simpa [State.decodeRefused] using hdact) (not_not.mp hrem)).yields

end Commands

/-- Every command aborts, faults with one of its faults, or completes. -/
theorem exec_leaves (i : Instr) (s : State) : Yields (Leaves i s) (exec i s) := by
  cases i with
  | nop => exact yields_unlessFaulted (yields_read 0)
  | clr => exact Completes.clr.yields
  | csrr idx => exact yields_read _
  | fset sym cnt => exact yields_unlessFaulted (Completes.fset sym cnt).yields
  | fcnt sym => exact execFcnt_leaves s sym
  | fget sym => exact yields_unlessFaulted (yields_read _)
  | build => exact execBuild_leaves s
  | nwgt h => exact execNwgt_leaves s h
  | nlnk h => exact execNlnk_leaves s h
  | assign => exact execAssign_leaves s
  | clen sym => exact yields_unlessFaulted (yields_read _)
  | cbit sym pos => exact execCbit_leaves s sym pos
  | cbegin sym => exact execCbegin_leaves s sym
  | cpush bit => exact execCpush_leaves s bit
  | cend => exact execCend_leaves s
  | pack sym => exact execPack_leaves s sym
  | pchr ch => exact execPchr_leaves s ch
  | pflush => exact execPflush_leaves s
  | dbegin n => exact execDbegin_leaves s n
  | dbyte v => exact execDbyte_leaves s v
  | dend => exact execDend_leaves s

/-! ## The counters of an open decode (rule R40) -/

/-- The symbols of the open decode: those emitted and those still to emit. -/
def State.decodeTotal (s : State) : Nat :=
  s.dcnt.toNat + s.drem.toNat

/-- A bit moves at most one symbol from those to emit to those emitted. -/
theorem bitStep_keeps_sum {c : Cells 8 Bits} {u u' : Unpack} {b : Bool} {n : Nat} (hn : n < 2 ^ 32)
    (hu : u.cnt.toNat + u.rem.toNat = n) (h : bitStep c u b = .ok u') : u'.cnt.toNat + u'.rem.toNat = n := by
  obtain ⟨-, rfl⟩ | ⟨hrem, t, rfl⟩ | ⟨-, -, rfl⟩ := bitStep_ok_cases h
  · exact hu
  · simp only
    have hpos : u.rem.toNat ≠ 0 := fun h0 => hrem (BitVec.eq_of_toNat_eq h0)
    bv_omega
  · exact hu

theorem unpackBits_keeps_sum {c : Cells 8 Bits} {v : Byte} {k : Nat} {u u' : Unpack}
    (h : unpackBits c v k u = .ok u') (hn : u.cnt.toNat + u.rem.toNat < 2 ^ 32) :
    u'.cnt.toNat + u'.rem.toNat = u.cnt.toNat + u.rem.toNat :=
  unpackBits_keeps (P := fun w => w.cnt.toNat + w.rem.toNat = u.cnt.toNat + u.rem.toNat) (bitStep_keeps_sum hn) rfl h

/-- A completing command that neither opens nor closes a decode keeps its total. -/
theorem Completes.keeps_decodeTotal {i : Instr} {s u : State} (h : Completes s i u) (hdact : s.dact = true)
    (hsum : s.decodeTotal < 2 ^ 32) (hopen : u.dact = true) : u.decodeTotal = s.decodeTotal := by
  cases h with
  | clr => exact absurd hopen (by simp [State.reset])
  | dbegin n hclosed => exact absurd hdact (by simp [hclosed])
  | dbyte v _ _ _ hu => exact unpackBits_keeps_sum hu hsum
  | read | fset | fcnt | build | assign | cbegin | cpush | cend | accept | pflush | dend => rfl

/-- Settles O54: `DBEGIN` sets the two counters, a bit of `DBYTE` moves one symbol from one to the other, and no other
command that leaves the decode open writes them. -/
theorem decodedAndRemainingAddUp : Obligations.DecodedAndRemainingAddUp := by
  refine ⟨fun n s t h hclear => ?_, fun i s t hdact hsum h hopen => ?_⟩
  · cases exec_leaves _ s t h with
    | aborted hf => exact absurd hf (by simpa [State.afterAbort] using hclear)
    | faulted => exact nomatch hclear
    | completed hu d =>
      cases hu with
      | read hi => exact absurd hi (by simp [Instr.opcode])
      | accept hbits => exact nomatch hbits
      | dbegin => exact ⟨rfl, Nat.zero_add _⟩
  · cases exec_leaves i s t h with
    | aborted => rfl
    | faulted => rfl
    | completed hu d => exact hu.keeps_decodeTotal hdact hsum hopen

/-! ## Handles (rules R24, R133) -/

theorem leafHandle_toNat (b : Byte) : (leafHandle b).toNat = b.toNat := by
  have := b.isLt
  simp only [leafHandle, BitVec.toNat_setWidth]
  omega

theorem leafHandle_lt (b : Byte) : (leafHandle b).toNat < 256 := by
  rw [leafHandle_toNat]
  exact b.isLt

theorem leafHandle_injective : Function.Injective leafHandle := by
  intro b c h
  apply BitVec.eq_of_toNat_eq
  rw [← leafHandle_toNat, h, leafHandle_toNat]

theorem leafHandle_ne_none (b : Byte) : leafHandle b ≠ Config.none := by
  intro h
  exact absurd (h ▸ leafHandle_lt b) (by decide)

/-- A handle of the leaf range is the leaf handle of its symbol. -/
theorem leafHandle_handleSym {h : Handle} (hlt : h.toNat < 256) : leafHandle (handleSym h) = h := by
  apply BitVec.eq_of_toNat_eq
  rw [leafHandle_toNat, handleSym, BitVec.toNat_setWidth, Nat.mod_eq_of_lt hlt]

/-- The handle at which merge number `k` puts its node. -/
def mergeHandle (k : Nat) : Handle :=
  BitVec.ofNat 9 (Config.firstInternal + k)

theorem mergeHandle_toNat {k : Nat} (hk : k < 255) : (mergeHandle k).toNat = 256 + k := by
  simp only [mergeHandle, Config.firstInternal, BitVec.toNat_ofNat]
  omega

theorem mergeHandle_ne_none {k : Nat} (hk : k < 255) : mergeHandle k ≠ Config.none := by
  intro h
  have hnat : Config.none.toNat = 256 + k := h ▸ mergeHandle_toNat hk
  have hnone : Config.none.toNat = 511 := rfl
  omega

/-! ## Keys and leaves (rules R21, R132) -/

theorem mem_presentKeys {f : Cells 8 Count} {b : Byte} : b ∈ presentKeys f ↔ readFreq f b ≠ 0 := by
  simp [presentKeys]

theorem presentKeys_nodup (f : Cells 8 Count) : (presentKeys f).Nodup :=
  allSyms_nodup.filter _

theorem presentKeys_length_le (f : Cells 8 Count) : (presentKeys f).length ≤ 256 :=
  allSyms_length ▸ List.length_filter_le _ _

/-- The absent keys add nothing to the total weight. -/
theorem sum_presentKeys (f : Cells 8 Count) :
    ((presentKeys f).map fun b => (readFreq f b).toNat).sum = totalWeight f := by
  unfold presentKeys totalWeight
  induction allSyms with
  | nil => rfl
  | cons b bs ih =>
    by_cases hb : readFreq f b = 0
    · rw [List.filter_cons_of_neg (by simp [hb]), ih, List.map_cons, List.sum_cons, hb]
      exact (Nat.zero_add _).symm
    · rw [List.filter_cons_of_pos (by exact bne_iff_ne.mpr hb), List.map_cons, List.sum_cons, ih, List.map_cons,
        List.sum_cons]

/-- Leaves written in turn, each at its own handle (rule R132). -/
def placeLeaves (f : Cells 8 Count) (ks : List Byte) (a : Cells 9 Node) : Cells 9 Node :=
  ks.foldl (fun a b => writeNode a (leafHandle b) (.leaf b (readFreq f b))) a

theorem leafArena_eq (f : Cells 8 Count) : leafArena f = placeLeaves f (presentKeys f) [] := rfl

theorem readNode_placeLeaves_leaf (f : Cells 8 Count) (ks : List Byte) (a : Cells 9 Node) (b : Byte) :
    readNode (placeLeaves f ks a) (leafHandle b) =
      if b ∈ ks then .leaf b (readFreq f b) else readNode a (leafHandle b) := by
  induction ks generalizing a with
  | nil => rfl
  | cons k ks ih =>
    refine (ih _).trans ?_
    rw [readNode_writeNode _ _ _ _ (leafHandle_ne_none k)]
    by_cases hk : b = k
    · simp [hk]
    · simp [hk, leafHandle_injective.eq_iff]

theorem readNode_placeLeaves_above (f : Cells 8 Count) (ks : List Byte) (a : Cells 9 Node) {h : Handle}
    (h256 : 256 ≤ h.toNat) : readNode (placeLeaves f ks a) h = readNode a h := by
  induction ks generalizing a with
  | nil => rfl
  | cons k ks ih =>
    have hne : h ≠ leafHandle k := by
      rintro rfl
      exact absurd (leafHandle_lt k) (Nat.not_lt.mpr h256)
    refine (ih _).trans ?_
    rw [readNode_writeNode _ _ _ _ (leafHandle_ne_none k), if_neg hne]

/-- The leaves before the first merge: one for each present key. -/
theorem readNode_leafArena_leaf (f : Cells 8 Count) (b : Byte) :
    readNode (leafArena f) (leafHandle b) = if readFreq f b = 0 then .invalid else .leaf b (readFreq f b) := by
  rw [leafArena_eq, readNode_placeLeaves_leaf, readNode_nil]
  simp only [mem_presentKeys, ne_eq, ite_not]

theorem readNode_leafArena_above (f : Cells 8 Count) {h : Handle} (h256 : 256 ≤ h.toNat) :
    readNode (leafArena f) h = .invalid := by
  rw [leafArena_eq, readNode_placeLeaves_above f _ _ h256, readNode_nil]

/-! ## Taking the least candidates (rule R131) -/

theorem takeLeast_eq_none {before : Cand → Cand → Bool} {q : List Cand} (h : takeLeast before q = none) : q = [] := by
  cases q with
  | nil => rfl
  | cons c cs =>
    simp only [takeLeast] at h
    split at h
    · cases h
    · split at h <;> cases h

/-- The least candidate and the others are the candidates. -/
theorem takeLeast_perm {before : Cand → Cand → Bool} {q rest : List Cand} {m : Cand}
    (h : takeLeast before q = some (m, rest)) : q.Perm (m :: rest) := by
  induction q generalizing m rest with
  | nil => cases h
  | cons c cs ih =>
    simp only [takeLeast] at h
    split at h
    next hnone =>
      cases h
      rw [takeLeast_eq_none hnone]
    next m' rest' hsome =>
      split at h
      · cases h
        exact .refl _
      · cases h
        exact ((ih hsome).cons c).trans (.swap ..)

theorem takeTwo_perm {before : Cand → Cand → Bool} {q rest : List Cand} {x y : Cand}
    (h : takeTwo before q = some (x, y, rest)) : q.Perm (x :: y :: rest) := by
  unfold takeTwo at h
  split at h
  · cases h
  next _ q1 hfirst =>
    split at h
    · cases h
    next hsecond =>
      cases h
      exact (takeLeast_perm hfirst).trans ((takeLeast_perm hsecond).cons _)

theorem takeTwo_eq_none {before : Cand → Cand → Bool} {q : List Cand} (h : takeTwo before q = none) : q.length ≤ 1 := by
  unfold takeTwo at h
  split at h
  next hnone => simp [takeLeast_eq_none hnone]
  next _ q1 hfirst =>
    split at h
    next hnone =>
      rw [(takeLeast_perm hfirst).length_eq, takeLeast_eq_none hnone]
      exact Nat.le_refl 1
    · cases h

/-! ## The merge loop (rule R130) -/

/-- What every merge keeps, the loop keeps. -/
theorem mergeLoop_keeps {before : Cand → Cand → Bool} {P : Builder → Prop}
    (hstep : ∀ {b x y rest}, P b → b.cands.Perm (x :: y :: rest) → P (mergeNode b x y rest)) (fuel : Nat) {b : Builder}
    (hb : P b) : P (mergeLoop before fuel b) := by
  induction fuel generalizing b with
  | zero => exact hb
  | succ fuel ih =>
    simp only [mergeLoop]
    split
    · exact hb
    · exact ih (hstep hb (takeTwo_perm ‹_›))

/-- Each merge leaves one candidate less, so the loop ends with one. -/
theorem mergeLoop_one_cand (before : Cand → Cand → Bool) (fuel : Nat) {b : Builder} (hpos : b.cands ≠ [])
    (hfuel : b.cands.length ≤ fuel + 1) : (mergeLoop before fuel b).cands.length = 1 := by
  have hlen := List.length_pos_iff.mpr hpos
  induction fuel generalizing b with
  | zero => exact Nat.le_antisymm hfuel hlen
  | succ fuel ih =>
    simp only [mergeLoop]
    split
    next hnone => exact Nat.le_antisymm (takeTwo_eq_none hnone) hlen
    next x y rest htwo =>
      have hperm := (takeTwo_perm htwo).length_eq
      simp only [List.length_cons] at hperm
      have hnext : (mergeNode b x y rest).cands.length = rest.length + 1 := by simp [mergeNode]
      exact ih (by simp [mergeNode]) (by omega) (by omega)

/-! ## The forest between two merges (rules R24, R26, R133) -/

/-- Rule R26's clause on the children of an internal node. -/
def ChildrenBelow (a : Cells 9 Node) : Prop :=
  ∀ h w l r, readNode a h = .internal w l r →
    l ≠ r ∧ readNode a l ≠ .invalid ∧ readNode a r ≠ .invalid ∧
    (256 ≤ l.toNat → l < h) ∧ (256 ≤ r.toNat → r < h) ∧
    w.toNat = (readNode a l).weight.toNat + (readNode a r).weight.toNat

/-- The arena after `k` merges over the keys of `f`. -/
structure Forest (f : Cells 8 Count) (k : Nat) (a : Cells 9 Node) : Prop where
  leaves : ∀ b, readNode a (leafHandle b) = if readFreq f b = 0 then .invalid else .leaf b (readFreq f b)
  internals : ∀ h : Handle, 256 ≤ h.toNat →
    if h.toNat < 256 + k then ∃ w l r, readNode a h = .internal w l r else readNode a h = .invalid
  children : ChildrenBelow a
  one_parent : ∀ p q h, IsChild a p h → IsChild a q h → p = q

/-- A valid node without a parent (rule R130's candidates). -/
def IsRoot (a : Cells 9 Node) (h : Handle) : Prop :=
  readNode a h ≠ .invalid ∧ ∀ p, ¬ IsChild a p h

/-- The builder between two merges: its arena is a forest over the keys of `f`, its candidates are the forest's roots
with their weights, and the candidates' weights still add up to all frequencies. -/
structure Builder.Sound (f : Cells 8 Count) (b : Builder) : Prop where
  forest : Forest f b.merges b.arena
  roots : ∀ h, h ∈ b.cands.map Cand.handle ↔ IsRoot b.arena h
  weights : ∀ x ∈ b.cands, (readNode b.arena x.handle).weight = x.weight
  nodup : (b.cands.map Cand.handle).Nodup
  count : b.cands.length + b.merges = (presentKeys f).length
  total : (b.cands.map fun x => x.weight.toNat).sum = totalWeight f

section Forest
variable {f : Cells 8 Count} {k : Nat} {a : Cells 9 Node} (hF : Forest f k a)
include hF

/-- A handle of the leaf range holds no internal node. -/
theorem Forest.internal_range {h l r : Handle} {w : Count} (e : readNode a h = .internal w l r) :
    256 ≤ h.toNat ∧ h.toNat < 256 + k := by
  have h256 : 256 ≤ h.toNat := by
    by_contra hlt
    have hleaf := hF.leaves (handleSym h)
    rw [leafHandle_handleSym (Nat.lt_of_not_le hlt), e] at hleaf
    split at hleaf <;> cases hleaf
  have hint := hF.internals h h256
  split at hint
  · exact ⟨h256, ‹_›⟩
  · rw [hint] at e
    cases e

theorem Forest.valid_lt {h : Handle} (hv : readNode a h ≠ .invalid) : h.toNat < 256 + k := by
  by_contra hge
  have hint := hF.internals h (by omega)
  rw [if_neg hge] at hint
  exact hv hint

/-- The children of a node are valid. -/
theorem Forest.valid_of_isChild {p h : Handle} (hc : IsChild a p h) : readNode a h ≠ .invalid := by
  obtain ⟨w, l, r, e, hlr⟩ := hc
  obtain ⟨-, hl, hr, -⟩ := hF.children p w l r e
  obtain rfl | rfl := hlr
  · exact hl
  · exact hr

end Forest

section Merge
variable {f : Cells 8 Count} {k : Nat} {a : Cells 9 Node} (hF : Forest f k a) (hk : k < 255)
include hF hk

/-- The next merge's handle is still free. -/
theorem Forest.mergeHandle_free : readNode a (mergeHandle k) = .invalid := by
  by_contra hv
  have hlt := hF.valid_lt hv
  rw [mergeHandle_toNat hk] at hlt
  exact Nat.lt_irrefl _ hlt

theorem Forest.ne_mergeHandle {h : Handle} (hv : readNode a h ≠ .invalid) : h ≠ mergeHandle k := by
  rintro rfl
  exact hv (hF.mergeHandle_free hk)

/-- The children of a new node are its own, those of the others are theirs. -/
theorem Forest.isChild_merge (x : Count) (l r p h : Handle) :
    IsChild (writeNode a (mergeHandle k) (.internal x l r)) p h ↔
      IsChild a p h ∨ (p = mergeHandle k ∧ (l = h ∨ r = h)) := by
  have hread := readNode_writeNode a (mergeHandle k) p (.internal x l r) (mergeHandle_ne_none hk)
  simp only [IsChild, hread]
  by_cases hp : p = mergeHandle k
  · subst hp
    simp [hF.mergeHandle_free hk]
  · simp [hp]

/-- Two roots become the children of the node of the next merge (rule R133). -/
theorem Forest.merge {l r : Handle} {x : Count} (hl : IsRoot a l) (hr : IsRoot a r) (hlr : l ≠ r)
    (hx : x.toNat = (readNode a l).weight.toNat + (readNode a r).weight.toNat) :
    Forest f (k + 1) (writeNode a (mergeHandle k) (.internal x l r)) where
  leaves b := by
    have hne : leafHandle b ≠ mergeHandle k := by
      intro e
      have := leafHandle_lt b
      rw [e, mergeHandle_toNat hk] at this
      omega
    rw [readNode_writeNode _ _ _ _ (mergeHandle_ne_none hk), if_neg hne, hF.leaves]
  internals h h256 := by
    rw [readNode_writeNode _ _ _ _ (mergeHandle_ne_none hk)]
    have hnat := mergeHandle_toNat hk
    have hint := hF.internals h h256
    by_cases hh : h = mergeHandle k
    · subst hh
      rw [if_pos (by omega), if_pos rfl]
      exact ⟨x, l, r, rfl⟩
    · have hne : h.toNat ≠ 256 + k := fun e => hh (BitVec.eq_of_toNat_eq (e.trans hnat.symm))
      rw [if_neg hh]
      split at hint
      · rwa [if_pos (by omega)]
      · rwa [if_neg (by omega)]
  children h w c d e := by
    have hold {i : Handle} (hi : readNode a i ≠ .invalid) :
        readNode (writeNode a (mergeHandle k) (.internal x l r)) i = readNode a i := by
      rw [readNode_writeNode _ _ _ _ (mergeHandle_ne_none hk), if_neg (hF.ne_mergeHandle hk hi)]
    rw [readNode_writeNode _ _ _ _ (mergeHandle_ne_none hk)] at e
    split at e
    next hh =>
      cases e
      have hnat := mergeHandle_toNat hk
      have hllt := hF.valid_lt hl.1
      have hrlt := hF.valid_lt hr.1
      rw [hold hl.1, hold hr.1, hh]
      exact ⟨hlr, hl.1, hr.1, fun _ => by bv_omega, fun _ => by bv_omega, hx⟩
    next hh =>
      have hch := hF.children h w c d e
      rw [hold hch.2.1, hold hch.2.2.1]
      exact hch
  one_parent p q h hp hq := by
    rw [hF.isChild_merge hk] at hp hq
    have hroot {i : Handle} (hi : l = i ∨ r = i) : IsRoot a i := by
      obtain rfl | rfl := hi
      · exact hl
      · exact hr
    rcases hp with hp | ⟨rfl, hp⟩ <;> rcases hq with hq | ⟨rfl, hq⟩
    · exact hF.one_parent p q h hp hq
    · exact absurd hp ((hroot hq).2 p)
    · exact absurd hq ((hroot hp).2 q)
    · rfl

/-- A merge takes its two children from the roots and adds its own node to them. -/
theorem Forest.isRoot_merge {l r : Handle} (x : Count) (hl : IsRoot a l) (hr : IsRoot a r) (h : Handle) :
    IsRoot (writeNode a (mergeHandle k) (.internal x l r)) h ↔
      h = mergeHandle k ∨ (IsRoot a h ∧ h ≠ l ∧ h ≠ r) := by
  have hread := readNode_writeNode a (mergeHandle k) h (.internal x l r) (mergeHandle_ne_none hk)
  have hfree := hF.mergeHandle_free hk
  simp only [IsRoot, hread, hF.isChild_merge hk]
  by_cases hh : h = mergeHandle k
  · subst hh
    simp only [if_true]
    refine iff_of_true ⟨nofun, ?_⟩ (.inl trivial)
    rintro p (hp | ⟨-, rfl | rfl⟩)
    · exact hF.valid_of_isChild hp hfree
    · exact hl.1 hfree
    · exact hr.1 hfree
  · simp only [hh, if_false, false_or]
    constructor
    · rintro ⟨hv, hno⟩
      exact ⟨⟨hv, fun p hp => hno p (.inl hp)⟩, fun e => hno _ (.inr ⟨rfl, .inl e.symm⟩),
        fun e => hno _ (.inr ⟨rfl, .inr e.symm⟩)⟩
    · rintro ⟨⟨hv, hno⟩, hnl, hnr⟩
      refine ⟨hv, ?_⟩
      rintro p (hp | ⟨-, rfl | rfl⟩)
      · exact hno p hp
      · exact hnl rfl
      · exact hnr rfl

end Merge

theorem readNode_leafArena_key {f : Cells 8 Count} {b : Byte} (hb : b ∈ presentKeys f) :
    readNode (leafArena f) (leafHandle b) = .leaf b (readFreq f b) :=
  (readNode_leafArena_leaf f b).trans (if_neg (mem_presentKeys.mp hb))

/-- Before the first merge there is no internal node. -/
theorem leafArena_no_internal (f : Cells 8 Count) (h l r : Handle) (w : Count) :
    readNode (leafArena f) h ≠ .internal w l r := by
  intro e
  by_cases hlt : h.toNat < 256
  · rw [← leafHandle_handleSym hlt, readNode_leafArena_leaf] at e
    split at e <;> cases e
  · rw [readNode_leafArena_above f (Nat.le_of_not_lt hlt)] at e
    cases e

theorem leafArena_not_isChild (f : Cells 8 Count) (p h : Handle) : ¬ IsChild (leafArena f) p h := by
  rintro ⟨w, l, r, e, -⟩
  exact leafArena_no_internal f p l r w e

theorem leafArena_forest (f : Cells 8 Count) : Forest f 0 (leafArena f) where
  leaves := readNode_leafArena_leaf f
  internals h h256 := by
    rw [if_neg (by omega)]
    exact readNode_leafArena_above f h256
  children h w l r e := absurd e (leafArena_no_internal f h l r w)
  one_parent p _ h hp := absurd hp (leafArena_not_isChild f p h)

theorem initialBuilder_handles (f : Cells 8 Count) :
    (initialBuilder f).cands.map Cand.handle = (presentKeys f).map leafHandle :=
  List.map_map

/-- Before the first merge every leaf is a root. -/
theorem initialBuilder_sound (f : Cells 8 Count) : (initialBuilder f).Sound f where
  forest := leafArena_forest f
  roots h := by
    rw [initialBuilder_handles]
    constructor
    · intro hmem
      obtain ⟨b, hb, rfl⟩ := List.mem_map.mp hmem
      refine ⟨?_, fun p => leafArena_not_isChild f p _⟩
      simp [initialBuilder, readNode_leafArena_key hb]
    · rintro ⟨hv, -⟩
      have hlt : h.toNat < 256 := by
        by_contra hge
        exact hv (readNode_leafArena_above f (Nat.le_of_not_lt hge))
      refine List.mem_map.mpr ⟨handleSym h, mem_presentKeys.mpr fun h0 => hv ?_, leafHandle_handleSym hlt⟩
      rw [← leafHandle_handleSym hlt]
      exact (readNode_leafArena_leaf f _).trans (if_pos h0)
  weights x hx := by
    obtain ⟨b, hb, rfl⟩ := List.mem_map.mp hx
    exact congrArg Node.weight (readNode_leafArena_key hb)
  nodup := by
    rw [initialBuilder_handles]
    exact (presentKeys_nodup f).map leafHandle_injective
  count := List.length_map _
  total := by
    rw [← sum_presentKeys]
    simp [initialBuilder, leafCands, Function.comp_def]

@[simp] theorem mergeNode_arena (b : Builder) (x y : Cand) (rest : List Cand) :
    (mergeNode b x y rest).arena =
      writeNode b.arena (mergeHandle b.merges) (.internal (x.weight + y.weight) x.handle y.handle) := rfl

@[simp] theorem mergeNode_cands (b : Builder) (x y : Cand) (rest : List Cand) :
    (mergeNode b x y rest).cands = rest ++ [{ handle := mergeHandle b.merges, weight := x.weight + y.weight }] := rfl

@[simp] theorem mergeNode_merges (b : Builder) (x y : Cand) (rest : List Cand) :
    (mergeNode b x y rest).merges = b.merges + 1 := rfl

/-- One merge of the loop, whichever two candidates it takes, as long as the weights add up without overflow. -/
theorem Builder.Sound.mergeNode {f : Cells 8 Count} (hf : totalWeight f < 2 ^ 32) {b : Builder} {x y : Cand}
    {rest : List Cand} (hb : b.Sound f) (hperm : b.cands.Perm (x :: y :: rest)) :
    (mergeNode b x y rest).Sound f := by
  have hlen : rest.length + 2 + b.merges = (presentKeys f).length := by simpa [hperm.length_eq] using hb.count
  have hk : b.merges < 255 := by
    have := presentKeys_length_le f
    omega
  have hnodup := (hperm.map Cand.handle).nodup_iff.mp hb.nodup
  simp only [List.map_cons, List.nodup_cons, List.mem_cons, not_or] at hnodup
  obtain ⟨⟨hxy, hxrest⟩, hyrest, hrest⟩ := hnodup
  have hroots (h : Handle) : IsRoot b.arena h ↔ h = x.handle ∨ h = y.handle ∨ h ∈ rest.map Cand.handle := by
    rw [← hb.roots, (hperm.map Cand.handle).mem_iff]
    simp only [List.map_cons, List.mem_cons]
  have hx : IsRoot b.arena x.handle := (hroots _).mpr (.inl rfl)
  have hy : IsRoot b.arena y.handle := (hroots _).mpr (.inr (.inl rfl))
  have hweight {z : Cand} (hz : z ∈ x :: y :: rest) : (readNode b.arena z.handle).weight = z.weight :=
    hb.weights z (hperm.mem_iff.mpr hz)
  have htotal : x.weight.toNat + (y.weight.toNat + (rest.map fun z => z.weight.toNat).sum) = totalWeight f := by
    rw [← hb.total, (hperm.map _).sum_eq, List.map_cons, List.map_cons, List.sum_cons, List.sum_cons]
  have hsum : (x.weight + y.weight).toNat = x.weight.toNat + y.weight.toNat := by
    rw [BitVec.toNat_add, Nat.mod_eq_of_lt (by omega)]
  refine ⟨hb.forest.merge hk hx hy hxy ?_, fun h => ?_, fun z hz => ?_, ?_, ?_, ?_⟩
  · rw [hsum, hweight (by simp), hweight (by simp)]
  · rw [mergeNode_arena, hb.forest.isRoot_merge hk _ hx hy, hroots]
    simp only [mergeNode_cands, List.map_append, List.map_cons, List.map_nil, List.mem_append, List.mem_singleton]
    constructor
    · rintro (hmem | rfl)
      · exact .inr ⟨.inr (.inr hmem), fun e => hxrest (e ▸ hmem), fun e => hyrest (e ▸ hmem)⟩
      · exact .inl rfl
    · rintro (rfl | ⟨rfl | rfl | hmem, hnx, hny⟩)
      · exact .inr rfl
      · exact absurd rfl hnx
      · exact absurd rfl hny
      · exact .inl hmem
  · rw [mergeNode_arena, readNode_writeNode _ _ _ _ (mergeHandle_ne_none hk)]
    rw [mergeNode_cands, List.mem_append, List.mem_singleton] at hz
    rcases hz with hz | rfl
    · have hroot : IsRoot b.arena z.handle := (hroots _).mpr (.inr (.inr (List.mem_map_of_mem hz)))
      rw [if_neg (hb.forest.ne_mergeHandle hk hroot.1), hweight (by simp [hz])]
    · rw [if_pos rfl]
      rfl
  · have hfresh : mergeHandle b.merges ∉ rest.map Cand.handle := fun hmem =>
      hb.forest.ne_mergeHandle hk ((hroots _).mpr (.inr (.inr hmem))).1 rfl
    rw [mergeNode_cands, List.map_append, List.map_singleton, ← List.concat_eq_append]
    exact hrest.concat hfresh
  · simp only [mergeNode_cands, mergeNode_merges, List.length_append, List.length_singleton]
    omega
  · simp only [mergeNode_cands, List.map_append, List.sum_append, List.map_singleton, List.sum_singleton, hsum]
    omega

/-! ## The tree that `BUILD` leaves (rules R26, R130, R134) -/

section Final
variable {f : Cells 8 Count} {before : Cand → Cand → Bool}

theorem finalBuilder_sound (hf : totalWeight f < 2 ^ 32) : (finalBuilder before f).Sound f :=
  mergeLoop_keeps (Builder.Sound.mergeNode hf) _ (initialBuilder_sound f)

theorem finalBuilder_one_cand (hkeys : presentKeys f ≠ []) : ∃ c, (finalBuilder before f).cands = [c] := by
  have hcands : (initialBuilder f).cands ≠ [] := by simpa [initialBuilder, leafCands] using hkeys
  exact List.length_eq_one_iff.mp (mergeLoop_one_cand before _ hcands (Nat.le_succ _))

/-- Of the roots of a forest the last node merged is one: nothing that stands above it could be its parent. -/
theorem Forest.isRoot_last {k : Nat} {a : Cells 9 Node} (hF : Forest f (k + 1) a) (hk : k < 255) :
    IsRoot a (mergeHandle k) := by
  have hnat := mergeHandle_toNat hk
  have hint := hF.internals (mergeHandle k) (by omega)
  rw [if_pos (by omega)] at hint
  obtain ⟨w, l, r, e⟩ := hint
  refine ⟨by simp [e], ?_⟩
  rintro p ⟨w', l', r', e', hlr⟩
  obtain ⟨-, -, -, hl, hr, -⟩ := hF.children p w' l' r' e'
  have hp := (hF.internal_range e').2
  have hlt : mergeHandle k < p := by
    obtain rfl | rfl := hlr
    · exact hl (by omega)
    · exact hr (by omega)
  bv_omega

theorem Forest.leafCount_eq {k : Nat} {a : Cells 9 Node} (hF : Forest f k a) :
    leafCount a = (presentKeys f).length := by
  rw [leafCount, presentKeys, ← List.countP_eq_length_filter]
  refine List.countP_congr fun b _ => ?_
  rw [hF.leaves, bne_iff_ne, bne_iff_ne, ne_eq, ne_eq, not_iff_not]
  by_cases hb : readFreq f b = 0 <;> simp only [hb, if_true, if_false, reduceCtorEq]

theorem Builder.Sound.fullTree {b : Builder} (hb : b.Sound f) {c : Cand} (hc : b.cands = [c]) :
    FullTree b.arena b.root (BitVec.ofNat 9 ((presentKeys f).length + b.merges)) (presentKeys f).length := by
  have hcount : 1 + b.merges = (presentKeys f).length := by simpa [hc] using hb.count
  have hmerges : b.merges = (presentKeys f).length - 1 := by omega
  have hle := presentKeys_length_le f
  have hroot : b.root = c.handle := by simp [Builder.root, hc]
  have hroots (h : Handle) : IsRoot b.arena h ↔ h = b.root := by
    rw [← hb.roots, hc, hroot]
    simp
  have hvalid := ((hroots b.root).mpr rfl).1
  refine
    { pos := by omega
      count := hb.forest.leafCount_eq
      nnode_eq := by rw [BitVec.toNat_ofNat]; omega
      leaves := fun x => ?_
      internals := hmerges ▸ hb.forest.internals
      root_eq := ?_
      children := hb.forest.children
      parents := fun h hv hne => ?_ }
  · rw [hb.forest.leaves]
    by_cases hx : readFreq f x = 0
    · exact .inl (if_pos hx)
    · exact .inr ⟨_, hx, if_neg hx⟩
  · cases hm : b.merges with
    | zero =>
      rw [if_pos (by omega)]
      exact ⟨by simpa [hm] using hb.forest.valid_lt hvalid, hvalid⟩
    | succ k =>
      have hlast : mergeHandle k = b.root := (hroots _).mp ((hm ▸ hb.forest).isRoot_last (by omega))
      rw [if_neg (by omega), ← hlast, mergeHandle_toNat (by omega)]
      omega
  · have hparent : ∃ p, IsChild b.arena p h := by
      by_contra! hno
      exact hne ((hroots h).mp ⟨hv, hno⟩)
    obtain ⟨p, hp⟩ := hparent
    exact ⟨p, hp, fun q hq => hb.forest.one_parent q p h hq hp⟩

/-- `BUILD` of an empty frequency table leaves the empty tree (rule R135). -/
theorem finalBuilder_empty (hkeys : presentKeys f = []) :
    finalBuilder before f = { arena := [], cands := [], merges := 0 } := by
  simp [finalBuilder, initialBuilder, leafArena, leafCands, hkeys, mergeLoop]

/-- The tree that `BUILD` leaves satisfies rule R26, under every order of the candidates. -/
theorem finalBuilder_treeInv (hf : totalWeight f < 2 ^ 32) :
    TreeInv (finalBuilder before f).arena (finalBuilder before f).root
      (BitVec.ofNat 9 ((presentKeys f).length + (finalBuilder before f).merges)) := by
  by_cases hkeys : presentKeys f = []
  · rw [finalBuilder_empty hkeys, hkeys]
    exact .inl ⟨rfl, rfl, readNode_nil⟩
  · obtain ⟨c, hc⟩ := finalBuilder_one_cand (before := before) hkeys
    exact .inr ⟨_, (finalBuilder_sound hf).fullTree hc⟩

end Final

/-! ## The canonical form of the arena (log 12) -/

/-- The arena is in canonical form, and no node stands at `NONE`. -/
def ArenaFile (a : Cells 9 Node) : Prop :=
  Cells.wf Node.invalid a = true ∧ ∀ e ∈ a, e.1 ≠ Config.none

theorem arenaFile_nil : ArenaFile [] := ⟨rfl, nofun⟩

/-- The entries after a write are the old ones and the one written. -/
theorem Cells.fst_of_mem_write {n : Nat} {α : Type} [DecidableEq α] {d v : α} {c : Cells n α} {i : BitVec n}
    {e : BitVec n × α} (h : e ∈ Cells.write d c i v) : e.1 = i ∨ e ∈ c := by
  unfold Cells.write at h
  split at h
  · exact .inr (List.mem_of_mem_filter h)
  · rcases (Cells.mem_place _ _ _ _).mp h with rfl | hmem
    · exact .inl rfl
    · exact .inr (List.mem_of_mem_filter hmem)

theorem ArenaFile.writeNode {a : Cells 9 Node} (ha : ArenaFile a) (h : Handle) (x : Node) :
    ArenaFile (writeNode a h x) := by
  refine ⟨writeNode_wf a h x ha.1, fun e he => ?_⟩
  unfold Machine.writeNode at he
  split at he
  · exact ha.2 e he
  · rcases Cells.fst_of_mem_write he with rfl | hmem
    · assumption
    · exact ha.2 e hmem

theorem ArenaFile.placeLeaves {a : Cells 9 Node} (ha : ArenaFile a) (f : Cells 8 Count) (ks : List Byte) :
    ArenaFile (placeLeaves f ks a) := by
  induction ks generalizing a with
  | nil => exact ha
  | cons k ks ih => exact ih (ha.writeNode _ _)

theorem finalBuilder_arenaFile (before : Cand → Cand → Bool) (f : Cells 8 Count) :
    ArenaFile (finalBuilder before f).arena :=
  mergeLoop_keeps (P := fun b => ArenaFile b.arena) (fun hb _ => hb.writeNode _ _) _ (arenaFile_nil.placeLeaves f _)

/-! ## The code table (rules R22, R23, R150 to R154) -/

theorem presentCount_le (c : Cells 8 Bits) : presentCount c ≤ 256 :=
  allSyms_length ▸ List.countP_le_length

/-- The walk writes a leaf's code, or walks both subtrees of an internal node. -/
theorem walk_some_cases {label : Bool} {a : Cells 9 Node} {fuel : Nat} {h : Handle} {p : Bits} {c c' : Cells 8 Bits}
    (hw : walk label a fuel h p c = some c') :
    (h.toNat < 256 ∧ c' = writeCode c (handleSym h) p) ∨
    ∃ n w l r cl, fuel = n + 1 ∧ readNode a h = .internal w l r ∧
      walk label a n l (p ++ [label]) c = some cl ∧ walk label a n r (p ++ [!label]) cl = some c' := by
  cases fuel with
  | zero =>
    simp only [walk] at hw
    split at hw
    · cases hw
      exact .inl ⟨(isLeafHandle_iff h).mp ‹_›, rfl⟩
    · cases hw
  | succ n =>
    simp only [walk] at hw
    split at hw
    · cases hw
      exact .inl ⟨(isLeafHandle_iff h).mp ‹_›, rfl⟩
    · split at hw
      next w l r hn =>
        split at hw
        · cases hw
        · exact .inr ⟨n, w, l, r, _, rfl, hn, ‹_›, hw⟩
      · cases hw

/-- The code with which a label sequence is written: `label` for a left edge and its complement for a right one (rule
R151, 93 U3). -/
def labelled (label : Bool) (q : Bits) : Bits :=
  q.map fun right => label ^^ right

/-- What a leaf's write gives, and two walks one after the other keep, a walk gives. -/
theorem walk_induction {label : Bool} {a : Cells 9 Node} {P : Nat → Handle → Bits → Cells 8 Bits → Cells 8 Bits → Prop}
    (hleaf : ∀ fuel h p c, h.toNat < 256 → P fuel h p c (writeCode c (handleSym h) p))
    (hnode : ∀ n h w l r p c cl c', readNode a h = .internal w l r → P n l (p ++ [label]) c cl →
      P n r (p ++ [!label]) cl c' → P (n + 1) h p c c')
    {fuel : Nat} {h : Handle} {p : Bits} {c c' : Cells 8 Bits} (hw : walk label a fuel h p c = some c') :
    P fuel h p c c' := by
  induction fuel generalizing h p c c' with
  | zero =>
    obtain ⟨hlt, rfl⟩ | ⟨_, _, _, _, _, hfuel, -⟩ := walk_some_cases hw
    · exact hleaf _ _ _ _ hlt
    · cases hfuel
  | succ n ih =>
    obtain ⟨hlt, rfl⟩ | ⟨_, w, l, r, cl, hfuel, hn, hl, hr⟩ := walk_some_cases hw
    · exact hleaf _ _ _ _ hlt
    · cases hfuel
      exact hnode _ _ _ _ _ _ _ _ _ hn (ih hl) (ih hr)

theorem walk_wf {label : Bool} {a : Cells 9 Node} {fuel : Nat} {h : Handle} {p : Bits} {c c' : Cells 8 Bits}
    (hw : walk label a fuel h p c = some c') : Cells.wf [] c = true → Cells.wf [] c' = true :=
  walk_induction (P := fun _ _ _ c c' => Cells.wf [] c = true → Cells.wf [] c' = true)
    (fun _ _ _ _ _ => writeCode_wf _ _ _) (fun _ _ _ _ _ _ _ _ _ _ hl hr hc => hr (hl hc)) hw

/-- The entry is a code that the walk from `h` gives the symbol, `p` being the code of `h`. -/
def CodeBelow (label : Bool) (a : Cells 9 Node) (fuel : Nat) (h : Handle) (p : Bits) (b : Byte) (code : Bits) : Prop :=
  ∃ q, code = p ++ labelled label q ∧ q.length ≤ fuel ∧ LeadsTo a h q b

/-- The walk leaves each entry as it was or gives it the label sequence that leads to the symbol's leaf (rule R151). -/
theorem walk_reads {label : Bool} {a : Cells 9 Node} {fuel : Nat} {h : Handle} {p : Bits} {c c' : Cells 8 Bits}
    (hw : walk label a fuel h p c = some c') (b : Byte) :
    readCode c' b = readCode c b ∨ CodeBelow label a fuel h p b (readCode c' b) := by
  refine walk_induction
    (P := fun fuel h p c c' => readCode c' b = readCode c b ∨ CodeBelow label a fuel h p b (readCode c' b)) ?_ ?_ hw
  · intro fuel h p c hlt
    rw [readCode_writeCode]
    by_cases hb : b = handleSym h
    · have hh : LeadsTo a h [] b := leafHandle_handleSym hlt ▸ hb ▸ .here b
      exact .inr ⟨[], by simp [hb, labelled], Nat.zero_le _, hh⟩
    · exact .inl (if_neg hb)
  · rintro n h w l r p c cl c' hn hl (hr | ⟨q, hq, hlen, hleads⟩)
    · rw [hr]
      refine hl.imp_right ?_
      rintro ⟨q, hq, hlen, hleads⟩
      exact ⟨false :: q, by simp [hq, labelled], Nat.succ_le_succ hlen, .left hn hleads⟩
    · exact .inr ⟨true :: q, by simp [hq, labelled], Nat.succ_le_succ hlen, .right hn hleads⟩

/-! ## No code of a tree begins another one (rule R154) -/

/-- No internal node stands in the leaf range (rule R24). -/
def LeavesEndPaths (a : Cells 9 Node) : Prop :=
  ∀ b w l r, readNode a (leafHandle b) ≠ .internal w l r

theorem FullTree.leavesEndPaths {a : Cells 9 Node} {root : Handle} {nnode : BitVec 9} {n : Nat}
    (ht : FullTree a root nnode n) : LeavesEndPaths a := by
  intro b w l r e
  rcases ht.leaves b with hinv | ⟨w', -, hleaf⟩
  · rw [hinv] at e
    cases e
  · rw [hleaf] at e
    cases e

/-- No path leads on from a leaf. -/
theorem leadsTo_leafHandle {a : Cells 9 Node} (ha : LeavesEndPaths a) {b c : Byte} {h : Handle} {q : Bits}
    (hq : LeadsTo a h q c) (hh : h = leafHandle b) : b = c := by
  cases hq with
  | here => exact (leafHandle_injective hh).symm
  | left hn => exact absurd (hh ▸ hn) (ha b _ _ _)
  | right hn => exact absurd (hh ▸ hn) (ha b _ _ _)

/-- A path that goes on from the end of another one leads to the same leaf. -/
theorem leadsTo_of_prefix {a : Cells 9 Node} (ha : LeavesEndPaths a) {h : Handle} {p q : Bits} {b c : Byte}
    (hp : LeadsTo a h p b) (hq : LeadsTo a h q c) (hpq : p <+: q) : b = c := by
  induction hp generalizing q with
  | here b => exact leadsTo_leafHandle ha hq rfl
  | left hn _ ih =>
    cases hq with
    | here => exact absurd hpq (by simp)
    | left hn' hq =>
      cases hn.symm.trans hn'
      exact ih hq (List.cons_prefix_cons.mp hpq).2
    | right => exact nomatch (List.cons_prefix_cons.mp hpq).1
  | right hn _ ih =>
    cases hq with
    | here => exact absurd hpq (by simp)
    | left => exact nomatch (List.cons_prefix_cons.mp hpq).1
    | right hn' hq =>
      cases hn.symm.trans hn'
      exact ih hq (List.cons_prefix_cons.mp hpq).2

theorem labelled_prefix_iff (label : Bool) (p q : Bits) : labelled label p <+: labelled label q ↔ p <+: q :=
  List.prefix_map_iff_of_injective fun _ _ => Bool.xor_right_inj.mp

/-- A code file without conflicts and with codes of at most `MAXLEN` bits, in canonical form. -/
structure CodeFile (c : Cells 8 Bits) : Prop where
  wf : Cells.wf [] c = true
  short : ∀ b, (readCode c b).length ≤ 255
  free : PrefixFree c

theorem codeFile_nil : CodeFile [] :=
  ⟨rfl, fun _ => Nat.zero_le 255, fun a _ _ ha => absurd (readCode_nil a) ha⟩

/-- The one-bit code of a lone symbol (rule R153). -/
theorem codeFile_lone (b : Byte) : CodeFile (writeCode [] b [false]) where
  wf := writeCode_wf [] b [false] rfl
  short t := by
    rw [readCode_writeCode]
    split <;> simp
  free t u htu ht hu := by
    have hkey {x : Byte} (hx : readCode (writeCode [] b [false]) x ≠ []) : x = b := by
      by_contra hne
      exact hx (by rw [readCode_writeCode, if_neg hne, readCode_nil])
    exact absurd ((hkey ht).trans (hkey hu).symm) htu

/-- The codes of the walk over a tree (rules R151, R154, R157). -/
theorem codeFile_walk {label : Bool} {a : Cells 9 Node} {root : Handle} {c : Cells 8 Bits} (ha : LeavesEndPaths a)
    (hw : walk label a Config.maxLen root [] [] = some c) : CodeFile c := by
  have hread (b : Byte) : readCode c b = [] ∨ CodeBelow label a 255 root [] b (readCode c b) := walk_reads hw b
  refine ⟨walk_wf hw rfl, fun b => ?_, fun b t hbt hb ht hpre => hbt ?_⟩
  · rcases hread b with hnone | ⟨q, hq, hlen, -⟩
    · simp [hnone]
    · simpa [hq, labelled] using hlen
  · obtain ⟨p, hp, -, hpb⟩ := (hread b).resolve_left hb
    obtain ⟨q, hq, -, hqt⟩ := (hread t).resolve_left ht
    rw [hp, hq, List.nil_append, List.nil_append, labelled_prefix_iff] at hpre
    exact leadsTo_of_prefix ha hpb hqt hpre

/-- The code table that `ASSIGN` makes of a tree of rule R26, whatever the label of the left edge. -/
theorem TreeInv.codeFile {label : Bool} {a : Cells 9 Node} {root : Handle} {nnode : BitVec 9} {c : Cells 8 Bits}
    (h : TreeInv a root nnode) (hc : codesOfTree label a root = some c) : CodeFile c := by
  unfold codesOfTree at hc
  split at hc
  · cases hc
    exact codeFile_nil
  next hroot =>
    split at hc
    · cases hc
      exact codeFile_lone _
    · obtain hempty | ⟨n, hfull⟩ := h
      · exact absurd hempty.root_none hroot
      · exact codeFile_walk hfull.leavesEndPaths hc

/-! ## A loaded entry (rules R23, R162) -/

theorem codesConflict_iff (p q : Bits) : codesConflict p q = true ↔ p <+: q ∨ q <+: p := by
  simp [codesConflict]

/-- A loaded entry that conflicts with no other one joins the table. -/
theorem CodeFile.load {c : Cells 8 Bits} (hc : CodeFile c) {b : Byte} {buf : Bits} (hbuf : buf.length ≤ 255)
    (hconf : conflicting c buf = none) : CodeFile (writeCode c b buf) where
  wf := writeCode_wf c b buf hc.wf
  short t := by
    rw [readCode_writeCode]
    split
    · exact hbuf
    · exact hc.short t
  free t u htu ht hu := by
    have hapart {x : Byte} (hx : readCode c x ≠ []) : ¬ (readCode c x <+: buf ∨ buf <+: readCode c x) := by
      have hnone := List.find?_eq_none.mp hconf x (mem_allSyms x)
      simpa [hx, codesConflict_iff] using hnone
    rw [readCode_writeCode] at ht hu
    rw [readCode_writeCode, readCode_writeCode]
    by_cases hb : t = b
    · have hub : u ≠ b := fun e => htu (hb.trans e.symm)
      rw [if_neg hub] at hu
      rw [if_pos hb, if_neg hub]
      exact fun hpre => hapart hu (.inr hpre)
    · rw [if_neg hb] at ht
      rw [if_neg hb]
      by_cases hub : u = b
      · rw [if_pos hub]
        exact fun hpre => hapart ht (.inl hpre)
      · rw [if_neg hub] at hu
        rw [if_neg hub]
        exact hc.free t u htu ht hu

/-- A new entry is one present entry more. -/
theorem presentCount_writeCode {c : Cells 8 Bits} {b : Byte} {buf : Bits} (hfree : readCode c b = [])
    (hbuf : buf ≠ []) : presentCount (writeCode c b buf) = presentCount c + 1 := by
  obtain ⟨as, bs, hsplit⟩ := List.append_of_mem (mem_allSyms b)
  have hnodup := hsplit ▸ allSyms_nodup
  have hbas : b ∉ as ∧ b ∉ bs := by
    rw [List.nodup_middle, List.nodup_cons, List.mem_append, not_or] at hnodup
    exact hnodup.1
  have hother {xs : List Byte} (hb : b ∉ xs) :
      (xs.countP fun x => !(readCode (writeCode c b buf) x).isEmpty) = xs.countP fun x => !(readCode c x).isEmpty := by
    refine List.countP_congr fun x hx => ?_
    have hne : x ≠ b := fun e => hb (e ▸ hx)
    rw [readCode_writeCode, if_neg hne]
  simp only [presentCount, hsplit, List.countP_append, List.countP_cons, hother hbas.1, hother hbas.2]
  simp [hfree, hbuf, Nat.add_assoc]

/-! ## Each command keeps the invariant -/

/-- `E_ABORTED` and `OK` are no faults (rules R31, R225). -/
theorem faultsOf_named {e : ResultCode} {o : Opcode} (he : e ∈ faultsOf o) : e ≠ .ok ∧ e ≠ .aborted := by
  cases o <;> revert e <;> decide

section Keep
variable {s : State} (h : Inv s)
include h

/-- The invariant says nothing of `LACT`, of the host's events and of the responses. -/
theorem Inv.unnamed (lact : Bool) (es : List HostEvent) (rs : List Response) :
    Inv { s with lact := lact, pending := es, responses := rs } :=
  ⟨{ h.files with }, { h.table with }, h.tree, { h.packer with }, { h.decoder with }, { h.load with },
    { h.faults with }⟩

theorem Inv.setPending (es : List HostEvent) : Inv (s.setPending es) := h.unnamed _ es _

theorem Inv.afterOk (d : Count) : Inv (s.afterOk d) := h.unnamed _ _ _

theorem Inv.afterAbort : Inv s.afterAbort := h.unnamed _ _ _

theorem Inv.setLact (b : Bool) : Inv (s.setLact b) := h.unnamed b _ _

theorem Inv.afterFault {e : ResultCode} (head : BitVec 16) (info : Count) (he : e ≠ .ok ∧ e ≠ .aborted) :
    Inv (s.afterFault head e info) :=
  ⟨{ h.files with }, { h.table with }, h.tree, { h.packer with }, { h.decoder with }, { h.load with },
    ⟨nofun, fun _ => he⟩⟩

theorem Inv.setFreq (b : Byte) (v : Count) : Inv (s.setFreq b v) :=
  ⟨{ h.files with freq_wf := writeFreq_wf _ _ _ h.files.freq_wf }, { h.table with }, h.tree, { h.packer with },
    { h.decoder with }, { h.load with }, { h.faults with }⟩

theorem Inv.setTree {a : Cells 9 Node} {r : Handle} {n : BitVec 9} (ha : ArenaFile a) (ht : TreeInv a r n) :
    Inv (s.setTree a r n) :=
  ⟨{ h.files with node_wf := ha.1, none_free := ha.2 }, { h.table with }, ht, { h.packer with }, { h.decoder with },
    { h.load with }, { h.faults with }⟩

theorem Inv.codeFile : CodeFile s.code :=
  ⟨h.files.code_wf, h.table.short, h.table.free⟩

/-- The code table may change while `PATH` is empty. -/
theorem Inv.setTable {c : Cells 8 Bits} {n : BitVec 9} (hc : CodeFile c) (hn : n.toNat = presentCount c)
    (hpath : s.path = []) : Inv (s.setTable c n) :=
  ⟨{ h.files with code_wf := hc.wf }, ⟨hn, hc.short, hc.free⟩, h.tree, { h.packer with },
    { h.decoder with path_ok := .inl hpath }, { h.load with }, { h.faults with }⟩

theorem Inv.setLoad (b : Byte) {bits : Bits} (hbits : bits.length ≤ 255) : Inv (s.setLoad b bits) :=
  ⟨{ h.files with }, { h.table with }, h.tree, { h.packer with }, { h.decoder with }, ⟨hbits⟩, { h.faults with }⟩

theorem Inv.setPacker {acc : Bits} {nacc : BitVec 3} {outcnt : Count} {out : List Byte} (pact : Bool)
    (hshort : acc.length ≤ 7) (hnacc : nacc.toNat = acc.length) (hout : outcnt.toNat = out.length) :
    Inv { s with acc := acc, nacc := nacc, outcnt := outcnt, out := out, pact := pact } :=
  ⟨{ h.files with }, { h.table with }, h.tree, ⟨hshort, hnacc, hout⟩, { h.decoder with }, { h.load with },
    { h.faults with }⟩

/-- A packing command emits whole bytes, which the counter has room for, and keeps at most 7 bits. -/
theorem Inv.emit {bytes : List Byte} {rest : Bits} (active : Bool)
    (hroom : s.outcnt.toNat + bytes.length ≤ Config.cntMax) (hrest : rest.length ≤ 7) :
    Inv (((s.emitOut bytes).setAcc rest).setPact active) := by
  refine h.setPacker active hrest ?_ ?_
  · rw [State.setAcc_nacc, State.setAcc_acc, BitVec.toNat_ofNat]
    omega
  · have hold := h.packer.outcnt_eq
    rw [Config.cntMax] at hroom
    rw [State.setAcc_outcnt, State.setAcc_out, State.emitOut_outcnt, State.emitOut_out, BitVec.toNat_add,
      BitVec.toNat_ofNat, List.length_append]
    omega

/-- With no run open `PATH` is empty. -/
theorem Inv.path_of_idle (hidle : s.runOpen = false) : s.path = [] :=
  h.decoder.idle (Bool.or_eq_false_iff.mp hidle).2

end Keep

/-! ## The position and the counters of a decode (rules R40, R47, R202) -/

/-- The working values of `DBYTE` at any of its bits, `base` symbols having been emitted by earlier bytes. -/
structure Unpack.Inv (c : Cells 8 Bits) (base : Nat) (u : Unpack) : Prop where
  path_ok : u.path = [] ∨ ∃ t, properPrefix u.path (readCode c t) = true
  done : u.rem = 0 → u.path = []
  counted : u.cnt.toNat ≤ base + u.out.length

theorem bitStep_keeps_inv {c : Cells 8 Bits} {base : Nat} {u u' : Unpack} {b : Bool} (hu : u.Inv c base)
    (h : bitStep c u b = .ok u') : u'.Inv c base := by
  obtain ⟨-, rfl⟩ | ⟨-, t, rfl⟩ | ⟨hrem, hin, rfl⟩ := bitStep_ok_cases h
  · exact hu
  · have hcounted := hu.counted
    refine ⟨.inl rfl, fun _ => rfl, ?_⟩
    simp only [List.length_append, List.length_singleton]
    bv_omega
  · exact ⟨.inr ((innerAt_iff c _).mp hin), fun h0 => absurd h0 hrem, hu.counted⟩

/-- A byte that passes leaves the decoder as its invariant says. -/
theorem Inv.unpack {s : State} (h : Inv s) (hdact : s.dact = true) {v : Byte} {u : Unpack}
    (hu : unpackBits s.code v 8 { rem := s.drem, cnt := s.dcnt, path := s.path, out := [] } = .ok u) :
    Inv ((s.setDecoder u.rem u.cnt (s.dincnt + 1) u.path).emitSym u.out) := by
  have hinv : u.Inv s.code s.symout.length :=
    unpackBits_keeps bitStep_keeps_inv ⟨h.decoder.path_ok, h.decoder.done, h.decoder.counted⟩ hu
  have hsum := unpackBits_keeps_sum hu h.decoder.sum
  refine ⟨{ h.files with }, { h.table with }, h.tree, { h.packer with }, ⟨hinv.path_ok, hinv.done, ?_, ?_, ?_⟩,
    { h.load with }, { h.faults with }⟩
  · exact fun hclosed => absurd hdact (by simpa using hclosed)
  · exact hsum.trans_lt h.decoder.sum
  · exact hinv.counted.trans_eq (List.length_append ..).symm

/-! ## The step -/

theorem Completes.keeps_inv {i : Instr} {s u : State} (hu : Completes s i u) (h : Inv s) : Inv u := by
  cases hu with
  | read => exact h
  | clr => exact s.blockReset_inv
  | fset sym cnt => exact h.setFreq sym cnt
  | fcnt sym => exact h.setFreq sym _
  | build hsum => exact h.setTree (finalBuilder_arenaFile _ _) (finalBuilder_treeInv hsum)
  | @assign c hidle hc =>
    have hn : (BitVec.ofNat 9 (presentCount c)).toNat = presentCount c := by
      have hle := presentCount_le c
      rw [BitVec.toNat_ofNat]
      omega
    exact h.setTable (h.tree.codeFile hc) hn (h.path_of_idle hidle)
  | cbegin sym => exact (h.setLoad (bits := []) sym (Nat.zero_le 255)).setLact true
  | cpush bit _ hroom =>
    refine h.setLoad s.ldsym ?_
    have hshort := h.load.short
    have hne : s.ldbuf.length ≠ 255 := hroom
    rw [List.length_append, List.length_singleton]
    omega
  | cend _ hidle hbuf hfree hconf =>
    have hn : (s.nsym + 1).toNat = presentCount (writeCode s.code s.ldsym s.ldbuf) := by
      have hle := presentCount_le s.code
      have hnsym := h.table.nsym_eq
      rw [presentCount_writeCode hfree hbuf]
      bv_omega
    exact (h.setTable (h.codeFile.load h.load.short hconf) hn (h.path_of_idle hidle)).setLact false
  | @accept _ bits q _ hq hroom =>
    refine h.emit true (by rwa [bytesOf_length]) ?_
    rw [List.length_drop]
    omega
  | pflush hroom => exact h.emit false hroom (Nat.zero_le 7)
  | dbegin n =>
    exact ⟨{ h.files with }, { h.table with }, h.tree, { h.packer with },
      ⟨.inl rfl, fun _ => rfl, fun _ => rfl, by simpa using n.isLt, Nat.zero_le _⟩, { h.load with }, { h.faults with }⟩
  | dbyte v hdact _ _ hu => exact h.unpack hdact hu
  | dend _ hrem =>
    exact ⟨{ h.files with }, { h.table with }, h.tree, { h.packer with },
      { h.decoder with idle := fun _ => h.decoder.done hrem }, { h.load with }, { h.faults with }⟩

theorem exec_keeps_inv {i : Instr} {s t : State} (h : Inv s) (ht : exec i s = .next t) : Inv t := by
  cases exec_leaves i s t ht with
  | aborted => exact h.afterAbort
  | faulted he info => exact h.afterFault _ info (faultsOf_named he)
  | completed hu d => exact (hu.keeps_inv h).afterOk d

theorem illegalWord_keeps_inv {w : CmdWord} {s t : State} (h : Inv s) (ht : illegalWord w s = .next t) : Inv t := by
  obtain ⟨-, rfl⟩ | ⟨-, hrule⟩ := unlessFaulted_cases s t ht
  · exact h.afterAbort
  · cases hrule
    exact h.afterFault _ _ ⟨nofun, nofun⟩

/-- Settles O57: a reset returns to the reset state; an aborted or faulting command writes at most the fault registers;
a completing one is treated by what it writes, where `BUILD` rests on the forest that the merge loop keeps and `ASSIGN`
on the uniqueness of the paths of the tree. -/
theorem stepKeepsInv : Obligations.StepKeepsInv := by
  intro s t h ht
  cases hp : s.pending with
  | nil =>
    cases (step_idle hp).symm.trans ht
    exact h
  | cons e es =>
    cases e with
    | reset =>
      cases (step_reset hp).symm.trans ht
      exact State.blockReset_inv _
    | command w =>
      rw [step_command hp] at ht
      have hes := h.setPending es
      cases hd : decode w with
      | ok i => exact exec_keeps_inv hes (issue_legal _ hd ▸ ht)
      | error e => exact illegalWord_keeps_inv hes (issue_illegal _ hd ▸ ht)

end Sys2Proof.Machine

/-! Proofs of the family 20_memory.md: a packing run writes the logical bit stream (O40), the read commands have no side
effect (O53), and how much one command appends to a stream (O55). -/

namespace Sys2Proof.Machine

/-! ## The bits of a byte sequence (rule R57) -/

theorem bitsOfBytes_append (xs ys : List Byte) : bitsOfBytes (xs ++ ys) = bitsOfBytes xs ++ bitsOfBytes ys :=
  List.flatMap_append

theorem bitsOfBytes_length (bytes : List Byte) : (bitsOfBytes bytes).length = 8 * bytes.length := by
  simp [bitsOfBytes, List.length_flatMap, Nat.mul_comm]

/-- The padded last byte holds the pending bits, filled up with zeros to a whole byte (rules R60, R183). -/
theorem bitsOfBytes_paddedByte {acc : Bits} {nacc : BitVec 3} (hnacc : nacc.toNat = acc.length) :
    bitsOfBytes (paddedByte acc nacc) = acc ++ List.replicate ((8 - acc.length % 8) % 8) false := by
  have hlt : nacc.toNat < 8 := nacc.isLt
  by_cases h0 : nacc = 0
  · have hnil : acc = [] := List.length_eq_zero_iff.mp (by rw [← hnacc, h0]; rfl)
    simp [paddedByte, h0, hnil, bitsOfBytes]
  · have hpos : acc.length ≠ 0 := fun h => h0 (BitVec.eq_of_toNat_eq (hnacc.trans h))
    have hpad : (8 - acc.length % 8) % 8 = 8 - acc.length := by omega
    have hbyte : (acc ++ List.replicate (8 - acc.length) false).length = 8 := by
      rw [List.length_append, List.length_replicate]
      omega
    rw [paddedByte, if_neg h0, hnacc, hpad, bitsOfBytes, List.flatMap_singleton, bitsOfByte_byteOf _ hbyte]

/-! ## A packing run (rules R180 to R184) -/

/-- The packer as every command of a run finds it: no fault, at most 7 bits pending, `NACC` their number (rule R46). -/
structure PackerReady (s : State) : Prop where
  clear : s.fault = false
  short : s.acc.length < 8
  nacc_eq : s.nacc.toNat = s.acc.length

/-- The packer has taken `bits` from `s` to `t`: the bytes appended to `OUT` and then the bits pending in `t` are the
bits pending in `s` and then `bits` (rule R180). -/
structure Packed (s : State) (bits : Bits) (t : State) : Prop where
  ready : PackerReady t
  code_eq : t.code = s.code
  stream : ∃ bytes, t.out = s.out ++ bytes ∧ bitsOfBytes bytes ++ t.acc = s.acc ++ bits ∧
    t.outcnt.toNat = s.outcnt.toNat + bytes.length

theorem Packed.refl {s : State} (h : PackerReady s) : Packed s [] s :=
  ⟨h, rfl, [], by simp [bitsOfBytes]⟩

theorem Packed.trans {s t u : State} {bs cs : Bits} (h : Packed s bs t) (h' : Packed t cs u) :
    Packed s (bs ++ cs) u := by
  obtain ⟨xs, hout, hbits, hcnt⟩ := h.stream
  obtain ⟨ys, hout', hbits', hcnt'⟩ := h'.stream
  refine ⟨h'.ready, h'.code_eq.trans h.code_eq, xs ++ ys, ?_, ?_, ?_⟩
  · rw [hout', hout, List.append_assoc]
  · rw [bitsOfBytes_append, List.append_assoc, hbits', ← List.append_assoc, hbits, List.append_assoc]
  · rw [hcnt', hcnt, List.length_append, Nat.add_assoc]

/-- The bits taken are counted, eight by `OUTCNT` for each byte and the others by the pending ones. -/
theorem Packed.count {s t : State} {bits : Bits} (h : Packed s bits t) :
    8 * t.outcnt.toNat + t.acc.length = 8 * s.outcnt.toNat + (s.acc.length + bits.length) := by
  obtain ⟨bytes, -, hbits, hcnt⟩ := h.stream
  have hlen := congrArg List.length hbits
  rw [List.length_append, List.length_append, bitsOfBytes_length] at hlen
  omega

/-- `PACK` is accepted where its symbol has a code, which it adds to the logical stream (rule R181). -/
theorem bitsAccepted_pack {c : Cells 8 Bits} {sym : Byte} {bits : Bits} :
    bitsAccepted c (.pack sym) = some bits ↔ readCode c sym ≠ [] ∧ readCode c sym = bits := by
  rw [bitsAccepted, Option.ite_none_left_eq_some, Option.some_inj]

/-- An accepted command hands its bits to the packer. -/
theorem exec_of_bitsAccepted {s : State} {i : Instr} {bits : Bits} (hclear : s.fault = false)
    (hbits : bitsAccepted s.code i = some bits) : exec i s = acceptBits i bits s := by
  cases i with
  | pack sym =>
    obtain ⟨hcode, rfl⟩ := bitsAccepted_pack.mp hbits
    exact (unlessFaulted_clear s _ hclear).trans (if_neg hcode)
  | pchr ch =>
    rw [bitsAccepted_pchr, Option.map_eq_some_iff] at hbits
    obtain ⟨b, hb, rfl⟩ := hbits
    refine (unlessFaulted_clear s _ hclear).trans ?_
    rw [hb]
  | _ => cases hbits

/-- Accepting bits that `OUTCNT` has room for emits their whole groups of eight and keeps the rest pending. -/
theorem acceptBits_packed {s : State} (i : Instr) {bits : Bits} (hs : PackerReady s)
    (hroom : s.outcnt.toNat + (s.acc.length + bits.length) / 8 ≤ 2 ^ 32 - 1) :
    ∃ t, acceptBits i bits s = .next t ∧ Packed s bits t := by
  rw [← List.length_append] at hroom
  have hfits := hroom
  rw [← bytesOf_length ((s.acc ++ bits).length / 8) (s.acc ++ bits)] at hfits
  refine ⟨_, emitBytes_ok s i _ _ true hfits, ⟨hs.clear, ?_, ?_⟩, rfl, _, rfl, ?_, ?_⟩
  · simp only [State.afterOk, List.length_drop]
    omega
  · simp only [State.afterOk, List.length_drop, BitVec.toNat_ofNat]
    omega
  · rw [bitsOfBytes_bytesOf _ _ (Nat.mul_div_le ..)]
    exact List.take_append_drop ..
  · simp only [State.afterOk, bytesOf_length, BitVec.toNat_add, BitVec.toNat_ofNat]
    omega

/-- The logical bit stream of a run of packing commands under a code file (rule R180). -/
def runBits (c : Cells 8 Bits) (run : List Instr) : Bits :=
  run.flatMap fun i => (bitsAccepted c i).getD []

/-- A run of accepted commands packs its logical bit stream. -/
theorem execAll_packed {run : List Instr} {s : State} (hs : PackerReady s)
    (hrun : ∀ i ∈ run, bitsAccepted s.code i ≠ none)
    (hroom : s.outcnt.toNat + (s.acc.length + (runBits s.code run).length) / 8 ≤ 2 ^ 32 - 1) :
    ∃ t, execAll run s = .next t ∧ Packed s (runBits s.code run) t := by
  induction run generalizing s with
  | nil => exact ⟨s, rfl, .refl hs⟩
  | cons i run ih =>
    obtain ⟨hi, hrest⟩ := List.forall_mem_cons.mp hrun
    obtain ⟨bits, hbits⟩ := Option.ne_none_iff_exists'.mp hi
    have hsplit : runBits s.code (i :: run) = bits ++ runBits s.code run := by simp [runBits, hbits]
    rw [hsplit, List.length_append] at hroom
    obtain ⟨t, ht, hpack⟩ := acceptBits_packed i hs (bits := bits) (by omega)
    have hcount := hpack.count
    rw [← hpack.code_eq] at hrest hroom
    obtain ⟨u, hu, hpack'⟩ := ih hpack.ready hrest (by omega)
    refine ⟨u, ?_, ?_⟩
    · rw [execAll, exec_of_bitsAccepted hs.clear hbits, ht]
      exact hu
    · rw [hsplit]
      rw [hpack.code_eq] at hpack'
      exact hpack.trans hpack'

/-- `PFLUSH` of a packer that is ready and has room appends the padded last byte and reports the new count. -/
theorem exec_pflush {s : State} (hs : PackerReady s)
    (hroom : s.outcnt.toNat + (paddedByte s.acc s.nacc).length ≤ 2 ^ 32 - 1) :
    ∃ u, exec .pflush s = .next u ∧ u.fault = false ∧ u.out = s.out ++ paddedByte s.acc s.nacc ∧
      u.responses = s.responses ++ [{ rc := .ok, data := u.outcnt }] ∧
      u.outcnt.toNat = s.outcnt.toNat + (paddedByte s.acc s.nacc).length := by
  refine ⟨_, (unlessFaulted_clear s _ hs.clear).trans (emitBytes_ok s _ _ _ _ hroom), hs.clear, rfl, rfl, ?_⟩
  simp only [State.afterOk, BitVec.toNat_add, BitVec.toNat_ofNat]
  omega

/-- Settles O40: by induction on the run each command's bits join the stream that `OUT` and the pending bits hold, and
`PFLUSH` adds the zeros that complete the last byte. -/
theorem packingRun : Obligations.PackingRun := by
  intro s run stream hclear hacc hnacc hrun (hstream : stream = runBits s.code run) hroom
  have hs : PackerReady s := ⟨hclear, by simp [hacc], by simp [hacc, hnacc]⟩
  obtain ⟨t, ht, hpack⟩ := execAll_packed hs hrun (by rw [← hstream, hacc, List.length_nil]; omega)
  rw [← hstream] at hpack
  obtain ⟨bytes, hout, hbits, hcnt⟩ := hpack.stream
  rw [hacc, List.nil_append] at hbits
  have hpad := bitsOfBytes_paddedByte hpack.ready.nacc_eq
  have hlen := congrArg List.length hbits
  have hpadlen := congrArg List.length hpad
  rw [List.length_append, bitsOfBytes_length] at hlen hpadlen
  rw [List.length_replicate] at hpadlen
  have hshort := hpack.ready.short
  obtain ⟨u, hu, huclear, huout, huresp, hucnt⟩ := exec_pflush hpack.ready (by omega)
  refine ⟨t, u, bytes, bytes ++ paddedByte t.acc t.nacc, ht, hpack.ready.clear, hout, hbits, hshort, hcnt, hu,
    huclear, ?_, ?_, huresp, by omega⟩
  · rw [huout, hout, List.append_assoc]
  · have hmod : stream.length % 8 = t.acc.length % 8 := by omega
    rw [bitsOfBytes_append, hpad, ← List.append_assoc, hbits, hmod]

/-! ## The read commands (rule R64) -/

/-- `OK` with data `d` is not the answer of a command that is aborted. -/
theorem unlessFaulted_eq_afterOk {s : State} {rule : Result} {d : Count} :
    unlessFaulted s rule = .next (s.afterOk d) ↔ s.fault = false ∧ rule = .next (s.afterOk d) := by
  constructor
  · intro h
    obtain ⟨-, habort⟩ | hrule := unlessFaulted_cases s _ h
    · exact absurd (congrArg State.responses habort) (by simp [State.afterOk, State.afterAbort])
    · exact hrule
  · rintro ⟨hclear, hrule⟩
    rw [unlessFaulted_clear s _ hclear, hrule]

theorem respond_eq_afterOk {s : State} {d v : Count} : respond v s = .next (s.afterOk d) ↔ v = d := by
  simp [respond_eq, State.afterOk]

theorem raise_ne_afterOk {s : State} (hclear : s.fault = false) (i : Instr) (e : ResultCode) (info d : Count) :
    raise i e info s ≠ .next (s.afterOk d) := by
  simp [raise_eq, State.afterOk, State.afterFault, hclear]

/-- When a read command answers `OK`, and with which data (rules R110, R112, R122, R139, R140, R158, R159). -/
def AnswersRead (s : State) (d : Count) : Instr → Prop
  | .nop => s.fault = false ∧ 0 = d
  | .csrr idx => s.csr idx = d
  | .fget sym => s.fault = false ∧ s.freqAt sym = d
  | .nwgt h => s.fault = false ∧ h ≠ Config.none ∧ (s.nodeAt h).weight = d
  | .nlnk h => s.fault = false ∧ h ≠ Config.none ∧ (s.nodeAt h).linkWord = d
  | .clen sym => s.fault = false ∧ BitVec.ofNat 32 (s.codeAt sym).length = d
  | .cbit sym pos => s.fault = false ∧ ∃ b, (s.codeAt sym)[pos.toNat]? = some b ∧ zext32 (BitVec.ofBool b) = d
  | _ => False

/-- A handle's data is answered unless the handle is `NONE` (rules R139, R140). -/
theorem rangeChecked_eq_afterOk {s : State} {i : Instr} {h : Handle} {v d : Count} (hclear : s.fault = false) :
    (if h = Config.none then raise i .range (zext32 h) s else respond v s) = .next (s.afterOk d) ↔
      h ≠ Config.none ∧ v = d := by
  by_cases hnone : h = Config.none
  · rw [if_pos hnone]
    exact iff_of_false (raise_ne_afterOk hclear _ _ _ _) fun hd => hd.1 hnone
  · rw [if_neg hnone, respond_eq_afterOk]
    exact (and_iff_right hnone).symm

theorem execCbit_eq_afterOk {s : State} {sym pos : Byte} {d : Count} :
    execCbit sym pos s = .next (s.afterOk d) ↔ AnswersRead s d (.cbit sym pos) := by
  refine unlessFaulted_eq_afterOk.trans (and_congr_right fun hclear => ?_)
  cases (s.codeAt sym)[pos.toNat]? with
  | none => exact iff_of_false (raise_ne_afterOk hclear _ _ _ _) nofun
  | some b => simp [respond_eq_afterOk]

theorem exec_read_eq_afterOk {i : Instr} {s : State} {d : Count}
    (hi : i.opcode ∈ [Opcode.nop, .csrr, .fget, .nwgt, .nlnk, .clen, .cbit]) :
    exec i s = .next (s.afterOk d) ↔ AnswersRead s d i := by
  cases i with
  | nop => exact unlessFaulted_eq_afterOk.trans (and_congr_right' respond_eq_afterOk)
  | csrr idx => exact respond_eq_afterOk
  | fget sym => exact unlessFaulted_eq_afterOk.trans (and_congr_right' respond_eq_afterOk)
  | nwgt h => exact unlessFaulted_eq_afterOk.trans (and_congr_right rangeChecked_eq_afterOk)
  | nlnk h => exact unlessFaulted_eq_afterOk.trans (and_congr_right rangeChecked_eq_afterOk)
  | clen sym => exact unlessFaulted_eq_afterOk.trans (and_congr_right' respond_eq_afterOk)
  | cbit sym pos => exact execCbit_eq_afterOk
  | _ => exact absurd hi (by simp [Instr.opcode])

/-- What a read command answers does not depend on the responses so far. -/
theorem answersRead_afterOk {s : State} {i : Instr} {d e : Count} :
    AnswersRead (s.afterOk e) d i ↔ AnswersRead s d i := by
  cases i <;> rfl

/-- A read command that completes leaves the block as it is. -/
theorem Completes.eq_of_read {i : Instr} {s u : State} (h : Completes s i u)
    (hi : i.opcode ∈ [Opcode.nop, .csrr, .fget, .nwgt, .nlnk, .clen, .cbit]) : u = s := by
  cases h with
  | read => rfl
  | accept hbits =>
    cases i with
    | pack | pchr => exact absurd hi (by simp [Instr.opcode])
    | _ => cases hbits
  | _ => exact absurd hi (by simp [Instr.opcode])

/-- Settles O53: an `OK` response is neither an abort nor a fault, and a read command that completes writes nothing; its
answer is made of state other than the responses, so the same command answers the same again. -/
theorem readCommandsHaveNoEffect : Obligations.ReadCommandsHaveNoEffect := by
  intro i s t d hi h hresp
  have ht : t = s.afterOk d := by
    cases exec_leaves i s t h with
    | aborted => exact absurd hresp (by simp [State.afterAbort])
    | faulted he => exact absurd hresp (by simp [State.afterFault, (faultsOf_named he).1])
    | completed hu d' =>
      obtain rfl := hu.eq_of_read hi
      obtain rfl : d' = d := by simpa [State.afterOk] using hresp
      rfl
  subst ht
  exact ⟨rfl, (exec_read_eq_afterOk hi).mpr (answersRead_afterOk.mpr ((exec_read_eq_afterOk hi).mp h))⟩

/-! ## How much one command appends (rules R62, R272) -/

/-- Only a completing command appends to a stream. -/
theorem exec_streams {i : Instr} {s t : State} (h : exec i s = .next t) :
    (t.out = s.out ∧ t.symout = s.symout) ∨ ∃ u, Completes s i u ∧ t.out = u.out ∧ t.symout = u.symout := by
  cases exec_leaves i s t h with
  | aborted => exact .inl ⟨rfl, rfl⟩
  | faulted => exact .inl ⟨rfl, rfl⟩
  | completed hu d => exact .inr ⟨_, hu, rfl, rfl⟩

/-- A command that accepts at most `m` bits, beside at most 7 pending ones, appends at most `(7 + m) / 8` bytes. -/
theorem exec_accept_out {i : Instr} {s t : State} {m : Nat} (h : exec i s = .next t)
    (hi : i.opcode ∈ [Opcode.pack, .pchr]) (hacc : s.acc.length ≤ 7)
    (hm : ∀ bits, bitsAccepted s.code i = some bits → bits.length ≤ m) :
    ∃ bytes, t.out = s.out ++ bytes ∧ bytes.length ≤ (7 + m) / 8 := by
  obtain ⟨hout, -⟩ | ⟨u, hu, hout, -⟩ := exec_streams h
  · exact ⟨[], by simpa using hout, Nat.zero_le _⟩
  · cases hu with
    | @accept _ bits q hbits hq =>
      have hle := hm bits hbits
      refine ⟨_, hout, ?_⟩
      rw [bytesOf_length, hq, List.length_append]
      omega
    | read hread =>
      obtain hop | hop := List.mem_pair.mp hi <;> exact absurd hread (by simp [hop])
    | _ => exact absurd hi (by simp [Instr.opcode])

theorem paddedByte_length_le (acc : Bits) (nacc : BitVec 3) : (paddedByte acc nacc).length ≤ 1 := by
  unfold paddedByte
  split
  · exact Nat.zero_le 1
  · exact Nat.le_refl 1

theorem bitStep_out_length {c : Cells 8 Bits} {u u' : Unpack} {b : Bool} (h : bitStep c u b = .ok u') :
    u'.out.length ≤ u.out.length + 1 := by
  obtain ⟨-, rfl⟩ | ⟨-, t, rfl⟩ | ⟨-, -, rfl⟩ := bitStep_ok_cases h
  · exact Nat.le_succ _
  · exact (List.length_append ..).le
  · exact Nat.le_succ _

/-- Each bit of a payload byte completes at most one symbol. -/
theorem unpackBits_out_length {c : Cells 8 Bits} {v : Byte} {k : Nat} {u u' : Unpack}
    (h : unpackBits c v k u = .ok u') : u'.out.length ≤ u.out.length + k := by
  induction k generalizing u with
  | zero =>
    cases h
    exact Nat.le_refl _
  | succ k ih =>
    simp only [unpackBits] at h
    split at h
    · cases h
    · have hbit := bitStep_out_length ‹_›
      have hrest := ih h
      omega

theorem exec_pflush_out {s t : State} (h : exec .pflush s = .next t) :
    ∃ bytes, t.out = s.out ++ bytes ∧ bytes.length ≤ 1 := by
  obtain ⟨hout, -⟩ | ⟨u, hu, hout, -⟩ := exec_streams h
  · exact ⟨[], by simpa using hout, Nat.zero_le _⟩
  · cases hu with
    | read hread => exact absurd hread (by simp [Instr.opcode])
    | accept hbits => cases hbits
    | pflush => exact ⟨_, hout, paddedByte_length_le ..⟩

theorem exec_dbyte_symout {v : Byte} {s t : State} (h : exec (.dbyte v) s = .next t) :
    ∃ syms, t.symout = s.symout ++ syms ∧ syms.length ≤ 8 := by
  obtain ⟨-, hsym⟩ | ⟨u, hu, -, hsym⟩ := exec_streams h
  · exact ⟨[], by simpa using hsym, Nat.zero_le _⟩
  · cases hu with
    | read hread => exact absurd hread (by simp [Instr.opcode])
    | accept hbits => cases hbits
    | dbyte _ _ _ _ hu => exact ⟨_, hsym, by simpa using unpackBits_out_length hu⟩

/-- Settles O55: `PACK` accepts a code of at most 255 bits and `PCHR` one bit, `PFLUSH` pads to one byte, and each of
the eight bits of `DBYTE` completes at most one symbol. -/
theorem emissionBounds : Obligations.EmissionBounds := by
  intro s t hacc hcode
  refine ⟨fun sym h => ?_, fun ch h => ?_, exec_pflush_out, fun v => exec_dbyte_symout⟩
  · refine exec_accept_out (m := 255) h (by simp [Instr.opcode]) hacc fun bits hbits => ?_
    obtain ⟨-, rfl⟩ := bitsAccepted_pack.mp hbits
    exact hcode sym
  · refine exec_accept_out (m := 1) h (by simp [Instr.opcode]) hacc fun bits hbits => ?_
    rw [bitsAccepted_pchr, Option.map_eq_some_iff] at hbits
    obtain ⟨b, -, rfl⟩ := hbits
    exact Nat.le_refl 1

end Sys2Proof.Machine

/-! Proofs of the family 30_encoding.md: the decoder and the encoder (O1 to O5), illegal words (O6), the
pseudo-instructions (O10), the result codes (O48). -/

namespace Sys2Proof

open Machine

/-! ## The fields of a word (rule R80) -/

/-- The fields put into a word are read back from it. -/
theorem RawCommand.ofWord_word (r : RawCommand) : RawCommand.ofWord r.word = r := by
  have hop : r.word.extractLsb' 40 8 = r.op :=
    (BitVec.extractLsb'_append_eq_of_le (by decide)).trans BitVec.extractLsb'_append_eq_left
  have hsym : r.word.extractLsb' 32 8 = r.sym :=
    (BitVec.extractLsb'_append_eq_of_le (by decide)).trans BitVec.extractLsb'_append_eq_right
  have hdata : r.word.extractLsb' 0 32 = r.data := BitVec.extractLsb'_append_eq_right
  rw [RawCommand.ofWord, hop, hsym, hdata]

theorem RawCommand.word_inj {r q : RawCommand} : r.word = q.word ↔ r = q :=
  ⟨fun h => by rw [← RawCommand.ofWord_word r, h, RawCommand.ofWord_word], congrArg _⟩

/-- Bits 47:32 of a word are its `op` and `sym` fields. -/
theorem headOfWord_word (r : RawCommand) : headOfWord r.word = r.op ++ r.sym :=
  BitVec.extractLsb'_append_eq_left

/-! ## The opcode map (rule R84) -/

theorem Opcode.mem_all (o : Opcode) : o ∈ Opcode.all := by
  cases o <;> decide

theorem Opcode.ofByte?_eq_some {b : Byte} {o : Opcode} : Opcode.ofByte? b = some o ↔ o.byte = b := by
  constructor
  · intro h
    simpa using List.find?_some h
  · rintro rfl
    exact Laws.WellFormedness.ofByte?_byte o

theorem Opcode.byte_injective : Function.Injective Opcode.byte := fun _ _ h =>
  Option.some.inj ((Opcode.ofByte?_eq_some.mpr h).symm.trans (Opcode.ofByte?_eq_some.mpr rfl))

/-! ## The decoder (rules R82, R83, R85) -/

/-- The fields are a legal word of the opcode: its own `op`, and zero wherever it has no operand. -/
structure Opcode.Accepts (o : Opcode) (r : RawCommand) : Prop where
  op : o.byte = r.op
  sym : o.format.usesSym = true ∨ r.sym = 0
  data : r.data &&& o.dataMustBeZero = 0

/-- The decoder under the one opcode that the `op` field allows. -/
theorem RawCommand.decode_of_op {r : RawCommand} {o : Opcode} (hop : o.byte = r.op) {i : Instr} :
    r.decode = .ok i ↔ o.Accepts r ∧ i = o.instr r.sym r.data := by
  simp only [RawCommand.decode, Opcode.ofByte?_eq_some.mpr hop]
  by_cases hsym : !o.format.usesSym && r.sym != 0
  · rw [if_pos hsym]
    refine ⟨nofun, fun ⟨ha, _⟩ => ?_⟩
    rcases ha.sym with h | h <;> simp [h] at hsym
  · rw [if_neg hsym]
    by_cases hdata : r.data &&& o.dataMustBeZero != 0
    · rw [if_pos hdata]
      exact ⟨nofun, fun ⟨ha, _⟩ => by simp [ha.data] at hdata⟩
    · rw [if_neg hdata]
      have ha : o.Accepts r := ⟨hop, by simpa [Classical.or_iff_not_imp_left] using hsym, by simpa using hdata⟩
      simp [ha, eq_comm]

/-- The decoder answers the command of the opcode that accepts the fields, and no other one. -/
theorem RawCommand.decode_eq_ok {r : RawCommand} {i : Instr} :
    r.decode = .ok i ↔ ∃ o : Opcode, o.Accepts r ∧ i = o.instr r.sym r.data := by
  constructor
  · intro h
    cases ho : Opcode.ofByte? r.op with
    | none => simp [RawCommand.decode, ho] at h
    | some o => exact ⟨o, (RawCommand.decode_of_op (Opcode.ofByte?_eq_some.mp ho)).mp h⟩
  · rintro ⟨o, ha, hi⟩
    exact (RawCommand.decode_of_op ha.op).mpr ⟨ha, hi⟩

/-! ## The fields of a command -/

/-- A field's low bits, extended with zeros, are the field with its high bits cleared. -/
theorem setWidth_extractLsb'_zero {n : Nat} (data : Count) :
    (data.extractLsb' 0 n).setWidth 32 = data &&& (BitVec.allOnes n).setWidth 32 := by
  ext k hk
  simp [hk, Bool.and_comm]

theorem Opcode.opcode_instr (o : Opcode) (sym : Byte) (data : Count) : (o.instr sym data).opcode = o := by
  cases o <;> rfl

theorem Opcode.symField_instr (o : Opcode) (sym : Byte) (data : Count) :
    (o.instr sym data).symField = if o.format.usesSym then sym else 0 := by
  cases o <;> rfl

/-- The operand's bits of `data` come back, and the bits that must be zero are zero. -/
theorem Opcode.dataField_instr (o : Opcode) (sym : Byte) (data : Count) :
    (o.instr sym data).dataField = data &&& ~~~o.dataMustBeZero := by
  cases o with
  | csrr | cbit | nwgt | nlnk => exact setWidth_extractLsb'_zero data
  | cpush => exact BitVec.and_one_eq_setWidth_ofBool_getLsbD.symm
  | fset | dbegin => exact BitVec.and_allOnes.symm
  | _ => exact BitVec.and_zero.symm

theorem Instr.instr_fields (i : Instr) : i.opcode.instr i.symField i.dataField = i := by
  cases i with
  | csrr v | nwgt v | nlnk v | cbit _ v =>
    simp [Opcode.instr, Instr.opcode, Instr.symField, Instr.dataField, BitVec.extractLsb'_setWidth_of_le]
  | cpush bit => cases bit <;> rfl
  | _ => rfl

/-- A command's own fields are a legal word of its opcode (rule R82). -/
theorem Instr.accepts_raw (i : Instr) : i.opcode.Accepts i.raw where
  op := rfl
  sym := by
    have hsym := i.opcode.symField_instr i.symField i.dataField
    rw [i.instr_fields] at hsym
    cases hu : i.opcode.format.usesSym with
    | true => exact .inl rfl
    | false => exact .inr (hsym.trans (by simp [hu]))
  data := by
    have hdata := i.opcode.dataField_instr i.symField i.dataField
    rw [i.instr_fields] at hdata
    calc i.dataField &&& i.opcode.dataMustBeZero
        = i.dataField &&& (~~~i.opcode.dataMustBeZero &&& i.opcode.dataMustBeZero) := by
          rw [← BitVec.and_assoc, ← hdata]
      _ = 0 := by simp

/-- Settles O3: a command's fields are legal for its opcode, and its operands are read back from them. -/
theorem decodeEncode : Obligations.DecodeEncode := by
  intro i
  rw [decode, encode, RawCommand.ofWord_word, RawCommand.decode_eq_ok]
  exact ⟨i.opcode, i.accepts_raw, i.instr_fields.symm⟩

/-- Legal fields are those of the command with its operands taken from them. -/
theorem Opcode.Accepts.raw_instr {o : Opcode} {r : RawCommand} (h : o.Accepts r) : (o.instr r.sym r.data).raw = r := by
  have hsym : (if o.format.usesSym then r.sym else 0) = r.sym := by
    rcases h.sym with hs | hs <;> simp [hs]
  have hdata : r.data &&& ~~~o.dataMustBeZero = r.data := by
    calc r.data &&& ~~~o.dataMustBeZero
        = r.data &&& o.dataMustBeZero ||| r.data &&& ~~~o.dataMustBeZero := by simp [h.data]
      _ = r.data := by rw [← BitVec.and_or_distrib_left, BitVec.or_not_self, BitVec.and_allOnes]
  rw [Instr.raw, Opcode.opcode_instr, Opcode.symField_instr, Opcode.dataField_instr, h.op, hsym, hdata]

/-- Settles O4: the word's fields are legal for the opcode, so they are those of the command. -/
theorem encodeDecode : Obligations.EncodeDecode := by
  intro w i h
  obtain ⟨o, ha, rfl⟩ := RawCommand.decode_eq_ok.mp h
  have hraw := ha.raw_instr
  constructor
  · rw [encode, hraw, Machine.RawCommand.word_ofWord]
  · rw [Instr.head, hraw, ← headOfWord_word, Machine.RawCommand.word_ofWord]

/-! ## The opcode table (rule R85) -/

/-- The bits of a word that the opcode fixes: its `op`, and the fields and bits without an operand. -/
def Opcode.fixedBits (o : Opcode) : RawCommand where
  op := 0xFF#8
  sym := if o.format.usesSym then 0 else 0xFF#8
  data := o.dataMustBeZero

/-- The row of the opcode table. -/
def Opcode.row (o : Opcode) : TableRow where
  opcode := o
  value := RawCommand.word { op := o.byte, sym := 0, data := 0 }
  mask := o.fixedBits.word

/-- The spec's table is the opcode map, the formats and the must-be-zero bits, row for row. -/
theorem opcodeTable_eq : opcodeTable = Opcode.all.map Opcode.row := by
  decide

@[simp] theorem Opcode.row_opcode (o : Opcode) : o.row.opcode = o := rfl

theorem mem_opcodeTable {row : TableRow} : row ∈ opcodeTable ↔ ∃ o : Opcode, o.row = row := by
  simp [opcodeTable_eq, Opcode.mem_all]

theorem RawCommand.word_and_word (r q : RawCommand) :
    r.word &&& q.word = RawCommand.word { op := r.op &&& q.op, sym := r.sym &&& q.sym, data := r.data &&& q.data } :=
  BitVec.and_append.trans (congrArg (· ++ _) BitVec.and_append)

/-- A word matches a row under the row's mask exactly when its fields are legal for the row's opcode. -/
theorem Opcode.row_matches {o : Opcode} {w : CmdWord} :
    w &&& o.row.mask = o.row.value ↔ o.Accepts (RawCommand.ofWord w) := by
  have hop : ∀ b : Byte, b &&& 0xFF#8 = b := fun _ => BitVec.and_allOnes
  have hsym : ∀ b : Byte, b &&& (if o.format.usesSym then 0 else 0xFF#8) = 0 ↔ o.format.usesSym = true ∨ b = 0 := by
    intro b
    cases o.format.usesSym with
    | true => simp
    | false => simp [hop]
  generalize hr : RawCommand.ofWord w = r
  rw [← RawCommand.word_ofWord w, hr, Opcode.row, RawCommand.word_and_word, RawCommand.word_inj, RawCommand.mk.injEq,
    Opcode.fixedBits, hop, hsym]
  exact ⟨fun ⟨h, hs, hd⟩ => ⟨h.symm, hs, hd⟩, fun ⟨h, hs, hd⟩ => ⟨h.symm, hs, hd⟩⟩

theorem decode_eq_ok_iff_row {w : CmdWord} {i : Instr} :
    decode w = .ok i ↔ ∃ o : Opcode, w &&& o.row.mask = o.row.value ∧
      i = o.instr (w.extractLsb' 32 8) (w.extractLsb' 0 32) := by
  simp only [Opcode.row_matches]
  exact RawCommand.decode_eq_ok

/-- A word is illegal when it matches no row. -/
theorem decode_eq_error_iff_row {w : CmdWord} :
    (∃ e, decode w = .error e) ↔ ∀ o : Opcode, w &&& o.row.mask ≠ o.row.value := by
  cases hd : decode w with
  | ok i =>
    obtain ⟨o, ho, -⟩ := decode_eq_ok_iff_row.mp hd
    exact ⟨nofun, fun h => absurd ho (h o)⟩
  | error e =>
    refine ⟨fun _ o ho => ?_, fun _ => ⟨e, rfl⟩⟩
    have := decode_eq_ok_iff_row.mpr ⟨o, ho, rfl⟩
    rw [hd] at this
    cases this

/-- The rows' match sets are disjoint because their opcodes differ. -/
theorem Opcode.row_unique {o p : Opcode} {w : CmdWord} (ho : w &&& o.row.mask = o.row.value)
    (hp : w &&& p.row.mask = p.row.value) : o = p :=
  Opcode.byte_injective ((Opcode.row_matches.mp ho).op.trans (Opcode.row_matches.mp hp).op.symm)

/-- Settles O5: a row matches exactly the words whose fields its opcode accepts, and a word has one opcode. -/
theorem decodeFollowsOpcodeTable : Obligations.DecodeFollowsOpcodeTable := by
  refine ⟨fun w i => ?_, fun w => ?_, fun w r hr q hq hwr hwq => ?_⟩
  · rw [decode_eq_ok_iff_row]
    simp [mem_opcodeTable]
  · rw [decode_eq_error_iff_row]
    simp [mem_opcodeTable]
  · obtain ⟨o, rfl⟩ := mem_opcodeTable.mp hr
    obtain ⟨p, rfl⟩ := mem_opcodeTable.mp hq
    rw [Opcode.row_unique hwr hwq]

/-! ## Illegal words (rule R86) -/

/-- The unassigned opcodes are the six ranges of rule R86. -/
theorem Opcode.ofByte?_eq_none : ∀ b : Byte, Opcode.ofByte? b = none ↔
    (0x03 ≤ b.toNat ∧ b.toNat ≤ 0x0F) ∨ (0x13 ≤ b.toNat ∧ b.toNat ≤ 0x1F) ∨ (0x23 ≤ b.toNat ∧ b.toNat ≤ 0x2F) ∨
    (0x36 ≤ b.toNat ∧ b.toNat ≤ 0x3F) ∨ (0x43 ≤ b.toNat ∧ b.toNat ≤ 0x4F) ∨ (0x53 ≤ b.toNat ∧ b.toNat ≤ 0xFF) := by
  decide +kernel

theorem Opcode.row_op (o : Opcode) : o.row.value.extractLsb' 40 8 = o.byte :=
  congrArg RawCommand.op (RawCommand.ofWord_word { op := o.byte, sym := 0, data := 0 })

/-- A word is illegal when its opcode is unassigned or it does not match the row of its opcode. -/
theorem decode_eq_error_iff_op {w : CmdWord} : (∃ e, decode w = .error e) ↔
    Opcode.ofByte? (w.extractLsb' 40 8) = none ∨
    ∃ o : Opcode, o.byte = w.extractLsb' 40 8 ∧ w &&& o.row.mask ≠ o.row.value := by
  rw [decode_eq_error_iff_row]
  constructor
  · intro h
    cases ho : Opcode.ofByte? (w.extractLsb' 40 8) with
    | none => exact .inl rfl
    | some o => exact .inr ⟨o, Opcode.ofByte?_eq_some.mp ho, h o⟩
  · intro h p hp
    have hop := (Opcode.row_matches.mp hp).op
    rcases h with hnone | ⟨o, ho, hne⟩
    · cases hnone.symm.trans (Opcode.ofByte?_eq_some.mpr hop)
    · rw [Opcode.byte_injective (ho.trans hop.symm)] at hne
      exact hne hp

/-- Settles O6: the decoder's verdict by the word's opcode, and the common check for the answer. -/
theorem illegalWords : Obligations.IllegalWords := by
  refine ⟨fun w => ?_, fun s w es hp ⟨e, he⟩ => ?_⟩
  · rw [decode_eq_error_iff_op, Opcode.ofByte?_eq_none]
    simp [mem_opcodeTable, Opcode.row_op]
  · rw [step_command hp, issue_illegal _ he]
    exact ⟨fun hf => unlessFaulted_clear _ _ hf, fun hf => unlessFaulted_fault _ _ hf⟩

/-! ## Words written out and printed forms (rules R84, R90) -/

/-- Settles O1: each word is decoded by evaluation. -/
theorem decodeSampleWords : Obligations.DecodeSampleWords :=
  ⟨rfl, rfl, rfl, rfl, rfl, rfl, rfl, rfl, rfl, rfl, rfl, rfl, rfl, rfl, rfl, rfl, rfl, rfl⟩

theorem hexDigits_length (k n : Nat) : (hexDigits k n).length = k := by
  induction k generalizing n with
  | zero => rfl
  | succ k ih => simp [hexDigits, ih]

/-- Settles O2: the examples by evaluation, and a printed form has as many digits as it is asked for. -/
theorem printedForms : Obligations.PrintedForms :=
  ⟨by decide, by decide, by decide, by decide, by decide, fun _ => hexDigits_length 12 _,
    fun _ => hexDigits_length 10 _⟩

end Sys2Proof

namespace Sys2Proof.Machine

/-! ## Pseudo-instructions (rule R91) -/

/-- No pseudo-instruction expands to a command that runs while `FAULT = 1` (rule R231). -/
theorem Pseudo.expand_aborts {p : Pseudo} {i : Instr} (hi : i ∈ p.expand) : i ≠ .clr ∧ ∀ idx, i ≠ .csrr idx := by
  cases p with
  | mkcode =>
    obtain rfl | rfl : i = .build ∨ i = .assign := by simpa [Pseudo.expand] using hi
    · exact ⟨nofun, nofun⟩
    · exact ⟨nofun, nofun⟩
  | fcnts | packs | dfeed =>
    obtain ⟨c, -, rfl⟩ := List.mem_map.mp hi
    exact ⟨nofun, nofun⟩
  | cdef sym bits =>
    rcases List.mem_cons.mp hi with rfl | hi
    · exact ⟨nofun, nofun⟩
    rcases List.mem_append.mp hi with hi | hi
    · obtain ⟨b, -, rfl⟩ := List.mem_map.mp hi
      exact ⟨nofun, nofun⟩
    · obtain rfl := List.mem_singleton.mp hi
      exact ⟨nofun, nofun⟩

/-- While `FAULT = 1` each command of a sequence without `CLR` and `CSRR` gets one `E_ABORTED` and does nothing. -/
theorem execAll_aborts {is : List Instr} (his : ∀ i ∈ is, i ≠ .clr ∧ ∀ idx, i ≠ .csrr idx) {t : State}
    (hf : t.fault = true) : execAll is t = .next { t with
      responses := t.responses ++ List.replicate is.length { rc := .aborted, data := t.err.byte.setWidth 32 } } := by
  induction is generalizing t with
  | nil => simp [execAll]
  | cons i is ih =>
    obtain ⟨⟨hclr, hcsrr⟩, hrest⟩ := List.forall_mem_cons.mp his
    rw [execAll, exec_of_fault t i hf hclr hcsrr]
    refine (ih hrest (t := t.afterAbort) hf).trans ?_
    simp [State.afterAbort, List.replicate_succ]

/-- Settles O10: the expansions are the definition's, and a rest of an expansion has only commands that abort. -/
theorem pseudoInstructions : Obligations.PseudoInstructions := by
  refine ⟨rfl, fun _ => rfl, fun _ => rfl, fun _ _ => rfl, fun _ => rfl, fun p first rest s t hp _ hf => ?_⟩
  exact execAll_aborts (fun i hi => Pseudo.expand_aborts (hp ▸ List.mem_append_right first hi)) hf

/-! ## Result codes (rules R221, R222) -/

/-- The sixteen result codes, in the order of rule R221. -/
def ResultCode.all : List ResultCode :=
  [.ok, .fmtTrunc, .fmtPad, .fmtNoCode, .fmtTrail, .fmtEmpty, .fmtPrefix, .fmtDup, .fmtLong, .encNoCode, .encChar, .seq,
   .illegal, .range, .overflow, .aborted]

theorem ResultCode.mem_all (e : ResultCode) : e ∈ ResultCode.all := by
  cases e <;> decide

theorem ResultCode.byte_injective : Function.Injective ResultCode.byte := fun d e =>
  List.inj_on_of_nodup_map (f := ResultCode.byte) (l := ResultCode.all) (by decide) d.mem_all e.mem_all

/-- What holds of each code by evaluation holds of every code. -/
theorem ResultCode.forall_of_all {p : ResultCode → Prop} (h : ∀ e ∈ ResultCode.all, p e) (e : ResultCode) : p e :=
  h e e.mem_all

/-- A response word's fields are the code's number and the data (rule R81). -/
theorem Response.word_fields (r : Response) : r.word.extractLsb' 32 8 = r.rc.byte ∧ r.word.extractLsb' 0 32 = r.data :=
  ⟨BitVec.extractLsb'_append_eq_left, BitVec.extractLsb'_append_eq_right⟩

/-- Settles O48: numbers and classes code by code, over the list of all sixteen. -/
theorem resultCodeClasses : Obligations.ResultCodeClasses :=
  ⟨rfl, rfl, rfl, rfl, rfl, rfl, rfl, rfl, rfl, rfl, rfl, rfl, rfl, rfl, rfl, rfl, ResultCode.byte_injective,
    ResultCode.forall_of_all (by decide), ResultCode.forall_of_all (by decide), ResultCode.forall_of_all (by decide),
    ResultCode.forall_of_all (by decide), Response.word_fields⟩

end Sys2Proof.Machine

/-! Proofs of the family 40_control.md: `NOP` (O12) and `CLR` (O13). -/

namespace Sys2Proof.Machine

/-! ## `NOP` (rule R110) -/

/-- Without a fault `NOP` leaves the state as it is but for its response. -/
theorem exec_nop_clear {s : State} (hclear : s.fault = false) : exec .nop s = .next (s.afterOk 0) :=
  (unlessFaulted_clear s _ hclear).trans (respond_eq s 0)

/-- Settles O12: the common check of R231 lets `NOP` answer without a fault and aborts it under one. -/
theorem nopRule : Obligations.NopRule :=
  ⟨rfl, fun s => ⟨exec_nop_clear, fun hfault => exec_of_fault s .nop hfault nofun nofun⟩⟩

/-! ## `CLR` (rule R111) -/

/-- `CLR` has no common check: it returns the block to its reset state and answers, in every state. -/
theorem exec_clr (s : State) : exec .clr s = .next (s.blockReset.afterOk 0) :=
  respond_eq (returnToReset s) 0

/-- A response is not part of the block's state (log 2), so a block that was reset and then answered is still reset. -/
theorem State.blockReset_afterOk_blockReset (s : State) (d : Count) :
    (s.blockReset.afterOk d).blockReset = s.blockReset.afterOk d := rfl

/-- Settles O13: `CLR` answers from the reset state, and from there a second `CLR` has nothing to reset. -/
theorem clrRule : Obligations.ClrRule := by
  refine ⟨rfl, exec_clr, fun s t ht => ?_⟩
  obtain rfl : s.blockReset.afterOk 0 = t := by simpa [exec_clr] using ht
  rw [exec_clr, State.blockReset_afterOk_blockReset]

end Sys2Proof.Machine

/-! Proofs of the family 41_frequency.md: `FSET` (O15), `FCNT` (O16), `FGET` (O17), and counting a byte sequence
(O18). -/

namespace Sys2Proof.Machine

theorem State.freqAt_setFreq (s : State) (sym b : Byte) (v : Count) :
    (s.setFreq sym v).freqAt b = if b = sym then v else s.freqAt b :=
  readFreq_writeFreq s.freq sym b v

/-! ## `FSET` (rule R120) -/

theorem exec_fset_clear {s : State} (sym : Byte) (cnt : Count) (hclear : s.fault = false) :
    exec (.fset sym cnt) s = .next ((s.setFreq sym cnt).afterOk 0) :=
  (unlessFaulted_clear s _ hclear).trans (respond_eq _ 0)

/-- Settles O15: the file after `FSET` is the one in which the symbol's entry is written. -/
theorem fsetRule : Obligations.FsetRule :=
  fun sym cnt => ⟨rfl, fun s hclear => ⟨_, exec_fset_clear sym cnt hclear, fun b => s.freqAt_setFreq sym b cnt⟩⟩

/-! ## `FCNT` (rule R121) -/

/-- The state after `FCNT sym` has counted: the entry one higher, and its new value answered. -/
def State.counted (s : State) (sym : Byte) : State :=
  (s.setFreq sym (s.freqAt sym + 1)).afterOk (s.freqAt sym + 1)

theorem exec_fcnt_room {s : State} {sym : Byte} (hclear : s.fault = false)
    (hroom : (s.freqAt sym).toNat < 2 ^ 32 - 1) : exec (.fcnt sym) s = .next (s.counted sym) :=
  (unlessFaulted_clear s _ hclear).trans (if_neg (Nat.ne_of_lt hroom))

theorem exec_fcnt_full {s : State} {sym : Byte} (hclear : s.fault = false)
    (hfull : (s.freqAt sym).toNat = 2 ^ 32 - 1) :
    exec (.fcnt sym) s = .next (s.afterFault (Instr.fcnt sym).head .overflow (sym.setWidth 32)) :=
  (unlessFaulted_clear s _ hclear).trans (if_pos hfull)

/-- An entry below the limit does not wrap when it is counted. -/
theorem State.counted_freqAt {s : State} {sym : Byte} (hroom : (s.freqAt sym).toNat < 2 ^ 32 - 1) (b : Byte) :
    ((s.counted sym).freqAt b).toNat = if b = sym then (s.freqAt sym).toNat + 1 else (s.freqAt b).toNat := by
  have hnew : (s.freqAt sym + 1).toNat = (s.freqAt sym).toNat + 1 := BitVec.toNat_add_of_lt (by simp; omega)
  rw [← hnew, ← apply_ite BitVec.toNat]
  exact congrArg BitVec.toNat (s.freqAt_setFreq sym b _)

/-- Settles O16: an entry at the limit faults and one below it is counted. -/
theorem fcntRule : Obligations.FcntRule := by
  refine fun sym => ⟨rfl, fun s hclear => ⟨exec_fcnt_full hclear, fun hroom => ?_⟩⟩
  have hdata : BitVec.ofNat 32 ((s.freqAt sym).toNat + 1) = s.freqAt sym + 1 := by
    rw [BitVec.ofNat_add, BitVec.ofNat_toNat, BitVec.setWidth_eq]
    rfl
  rw [hdata]
  exact ⟨_, exec_fcnt_room hclear hroom, State.counted_freqAt hroom⟩

/-! ## `FGET` (rule R122) -/

/-- Settles O17: without a fault `FGET` answers the entry from the state as it is. -/
theorem fgetRule : Obligations.FgetRule :=
  fun sym => ⟨rfl, fun s hclear => (unlessFaulted_clear s _ hclear).trans (respond_eq s (s.freqAt sym))⟩

/-! ## Counting a byte sequence (rule R123) -/

/-- Counting a byte moves one of its occurrences from the sequence into the file. -/
theorem State.counted_freqAt_add_count {s : State} {c : Byte} (hroom : (s.freqAt c).toNat < 2 ^ 32 - 1)
    (x : List Byte) (b : Byte) :
    ((s.counted c).freqAt b).toNat + x.count b = (s.freqAt b).toNat + (c :: x).count b := by
  rw [State.counted_freqAt hroom]
  by_cases hb : b = c
  · subst hb
    rw [if_pos rfl, List.count_cons_self]
    omega
  · rw [if_neg hb, List.count_cons_of_ne (Ne.symm hb)]

/-- From a state without fault, `FCNT` for every byte of a sequence adds the occurrences that fit. -/
theorem execAll_fcnt {x : List Byte} {s : State} (hclear : s.fault = false)
    (hfits : ∀ b, (s.freqAt b).toNat + x.count b < 2 ^ 32) :
    ∃ f rs, execAll (x.map .fcnt) s = .next { s with freq := f, responses := rs } ∧
      ∀ b, (readFreq f b).toNat = (s.freqAt b).toNat + x.count b := by
  induction x generalizing s with
  | nil => exact ⟨s.freq, s.responses, rfl, fun _ => rfl⟩
  | cons c x ih =>
    have hroom : (s.freqAt c).toNat < 2 ^ 32 - 1 := by
      have hc := hfits c
      rw [List.count_cons_self] at hc
      omega
    have hmoved := State.counted_freqAt_add_count hroom x
    obtain ⟨f, rs, hrun, hfile⟩ := ih (s := s.counted c) hclear fun b => (hmoved b).symm ▸ hfits b
    refine ⟨f, rs, ?_, fun b => (hfile b).trans (hmoved b)⟩
    rw [List.map_cons, execAll, exec_fcnt_room hclear hroom]
    exact hrun

/-- Settles O18: by induction on the sequence each `FCNT` moves one occurrence into the file, and the reset file is
all 0. -/
theorem countingContract : Obligations.CountingContract := by
  refine ⟨fun x s => execAll_fcnt, fun x hx => ?_⟩
  have hzero (b : Byte) : (State.reset.freqAt b).toNat + x.count b = x.count b := Nat.zero_add _
  obtain ⟨f, rs, hrun, hfile⟩ := execAll_fcnt (s := .reset) rfl fun b => (hzero b).symm ▸ hx b
  exact ⟨_, hrun, rfl, fun b => (hfile b).trans (hzero b)⟩

end Sys2Proof.Machine

/-! Proofs of the family 42_tree_builder.md: `BUILD` (O19 to O23), `NWGT` (O24), `NLNK` (O25), and the codes of the tree
under every tie-break and edge label (O30, O31). -/

namespace Sys2Proof.Machine

/-! ## `NWGT` and `NLNK` (rules R139, R140) -/

theorem exec_nwgt_none {s : State} (hclear : s.fault = false) :
    exec (.nwgt 511) s = .next (s.afterFault 0x2100 .range 511) :=
  (unlessFaulted_clear s _ hclear).trans (if_pos rfl)

theorem exec_nwgt_node {s : State} {h : Handle} (hclear : s.fault = false) (hh : h ≠ 511) :
    exec (.nwgt h) s = .next (s.afterOk (s.nodeAt h).weight) :=
  (unlessFaulted_clear s _ hclear).trans (if_neg hh)

theorem exec_nlnk_none {s : State} (hclear : s.fault = false) :
    exec (.nlnk 511) s = .next (s.afterFault 0x2200 .range 511) :=
  (unlessFaulted_clear s _ hclear).trans (if_pos rfl)

theorem exec_nlnk_node {s : State} {h : Handle} (hclear : s.fault = false) (hh : h ≠ 511) :
    exec (.nlnk h) s = .next (s.afterOk (s.nodeAt h).linkWord) :=
  (unlessFaulted_clear s _ hclear).trans (if_neg hh)

/-- The `data` field of a command with a handle, behind the other 16 bits of the word (rule R80). -/
theorem append_setWidth_handle (v : BitVec 16) (h : Handle) :
    v ++ h.setWidth 32 = (v ++ 0x000000#23 ++ h : CmdWord) := by
  rw [BitVec.append_assoc, BitVec.setWidth_eq_append (by decide)]
  rfl

theorem encode_nwgt (h : Handle) : encode (.nwgt h) = 0x21#8 ++ 0x00#8 ++ 0x000000#23 ++ h :=
  append_setWidth_handle (0x21#8 ++ 0x00#8) h

theorem encode_nlnk (h : Handle) : encode (.nlnk h) = 0x22#8 ++ 0x00#8 ++ 0x000000#23 ++ h :=
  append_setWidth_handle (0x22#8 ++ 0x00#8) h

/-- Settles O24: one case for `NONE` and one for each kind of node. -/
theorem nwgtRule : Obligations.NwgtRule := by
  refine fun h => ⟨encode_nwgt h, fun s hclear => ⟨?_, fun hh hnode => ?_, fun b w hh hnode => ?_,
    fun w l r hh hnode => ?_⟩⟩
  · rintro rfl
    exact exec_nwgt_none hclear
  all_goals
    rw [exec_nwgt_node hclear hh, hnode]
    rfl

theorem zext32_eq_ofNat {n : Nat} (v : BitVec n) : zext32 v = BitVec.ofNat 32 v.toNat :=
  (BitVec.ofNat_toNat 32 v).symm

/-- The link word of a leaf as a number. -/
theorem linkWord_leaf (b : Byte) (w : Count) :
    (Node.leaf b w).linkWord = BitVec.ofNat 32 (0x80000000 + b.toNat) := by
  rw [Node.linkWord, zext32_eq_ofNat, BitVec.ofNat_add]
  rfl

/-- The link word of an internal node as a number. -/
theorem linkWord_internal (w : Count) (l r : Handle) :
    (Node.internal w l r).linkWord = BitVec.ofNat 32 (0xC0000000 + r.toNat * 2 ^ 16 + l.toNat) := by
  rw [Node.linkWord, zext32_eq_ofNat, zext32_eq_ofNat, BitVec.ofNat_add, BitVec.ofNat_add,
    BitVec.shiftLeft_eq_mul_twoPow, BitVec.ofNat_mul]
  rfl

/-- Settles O25: one case for `NONE` and one for each kind of node. -/
theorem nlnkRule : Obligations.NlnkRule := by
  refine fun h => ⟨encode_nlnk h, fun s hclear => ⟨?_, fun hh hnode => ?_, fun b w hh hnode => ?_,
    fun w l r hh hnode => ?_⟩⟩
  · rintro rfl
    exact exec_nlnk_none hclear
  · rw [exec_nlnk_node hclear hh, hnode]
    rfl
  · rw [exec_nlnk_node hclear hh, hnode, linkWord_leaf]
  · rw [exec_nlnk_node hclear hh, hnode, linkWord_internal]

/-! ## `BUILD` (rule R130) -/

theorem freqSum_eq_totalWeight (f : Cells 8 Count) : freqSum f = totalWeight f := rfl

theorem keyCount_eq_length (f : Cells 8 Count) : keyCount f = (presentKeys f).length :=
  List.countP_eq_length_filter

/-- The state after a `BUILD` that completes: the tree is the final builder's, and its node count is answered. -/
def State.built (s : State) : State :=
  let b := finalBuilder candBefore s.freq
  let count := keyCount s.freq + b.merges
  (s.setTree b.arena b.root (BitVec.ofNat 9 count)).afterOk (BitVec.ofNat 32 count)

theorem exec_build_fits {s : State} (hclear : s.fault = false) (hsum : freqSum s.freq < 2 ^ 32) :
    exec .build s = .next s.built := by
  refine (unlessFaulted_clear s _ hclear).trans ((if_neg (Nat.not_le.mpr hsum)).trans ?_)
  rw [State.built, keyCount_eq_length]
  rfl

theorem exec_build_overflow {s : State} (hclear : s.fault = false) (hsum : 2 ^ 32 ≤ freqSum s.freq) :
    exec .build s = .next (s.afterFault 0x2000 .overflow 0x100) :=
  (unlessFaulted_clear s _ hclear).trans (if_pos hsum)

/-- Settles O19. -/
theorem buildOverflow : Obligations.BuildOverflow :=
  fun _ => exec_build_overflow

theorem presentKeys_eq_nil {f : Cells 8 Count} (hf : ∀ b, readFreq f b = 0) : presentKeys f = [] :=
  List.eq_nil_iff_forall_not_mem.mpr fun b hb => mem_presentKeys.mp hb (hf b)

/-- Settles O21: without a key the builder has no candidate, so the loop ends at once. -/
theorem buildEmptyTable : Obligations.BuildEmptyTable := by
  intro s hclear hzero
  have hkeys : presentKeys s.freq = [] := presentKeys_eq_nil hzero
  have hsum : freqSum s.freq = 0 := by rw [freqSum_eq_totalWeight, ← sum_presentKeys, hkeys]; rfl
  rw [exec_build_fits hclear (by omega), State.built, keyCount_eq_length, finalBuilder_empty hkeys, hkeys]
  rfl

theorem presentKeys_eq_singleton {f : Cells 8 Count} {b : Byte} (hb : readFreq f b ≠ 0)
    (hother : ∀ b', b' ≠ b → readFreq f b' = 0) : presentKeys f = [b] := by
  refine List.perm_singleton.mp ((List.perm_ext_iff_of_nodup (presentKeys_nodup f) (by simp)).mpr fun k => ?_)
  rw [mem_presentKeys, List.mem_singleton]
  refine ⟨fun hk => by_contra fun hne => hk (hother k hne), ?_⟩
  rintro rfl
  exact hb

/-- With one key the loop merges nothing (rule R136). -/
theorem finalBuilder_single {before : Cand → Cand → Bool} {f : Cells 8 Count} {b : Byte} (hkeys : presentKeys f = [b]) :
    finalBuilder before f =
      { arena := [(leafHandle b, .leaf b (readFreq f b))], cands := [⟨leafHandle b, readFreq f b⟩], merges := 0 } := by
  have harena : leafArena f = [(leafHandle b, .leaf b (readFreq f b))] := by
    simp [leafArena, hkeys, writeNode, leafHandle_ne_none, Cells.write, Cells.place]
  simp [finalBuilder, initialBuilder, harena, leafCands, hkeys, mergeLoop, takeTwo, takeLeast]

/-- Settles O22: the one leaf is the only candidate, so it is the root without a merge. -/
theorem buildSingleKey : Obligations.BuildSingleKey := by
  intro s b hclear hb hother
  have hkeys : presentKeys s.freq = [b] := presentKeys_eq_singleton hb hother
  have hsum : freqSum s.freq = (readFreq s.freq b).toNat := by
    rw [freqSum_eq_totalWeight, ← sum_presentKeys, hkeys]
    exact List.sum_singleton
  have hfits : freqSum s.freq < 2 ^ 32 := hsum ▸ (readFreq s.freq b).isLt
  rw [exec_build_fits hclear hfits, State.built, keyCount_eq_length, finalBuilder_single hkeys, hkeys]
  rfl

/-! ## The shape of the tree (rules R132, R134) -/

/-- What is known of the builder when the loop has ended, for a table with a key: the invariant of the merges, one
candidate, and one merge less than keys. -/
theorem finalBuilder_done {before : Cand → Cand → Bool} {f : Cells 8 Count} (hsum : freqSum f < 2 ^ 32)
    (hkeys : 1 ≤ keyCount f) :
    (finalBuilder before f).Sound f ∧ (∃ c, (finalBuilder before f).cands = [c]) ∧
      (finalBuilder before f).merges = keyCount f - 1 := by
  rw [keyCount_eq_length] at hkeys ⊢
  have hsound : (finalBuilder before f).Sound f := finalBuilder_sound hsum
  obtain ⟨c, hc⟩ := finalBuilder_one_cand (before := before) (List.ne_nil_of_length_pos hkeys)
  have hcount := hsound.count
  rw [hc, List.length_singleton] at hcount
  exact ⟨hsound, ⟨c, hc⟩, by omega⟩

theorem finalBuilder_fullTree {before : Cand → Cand → Bool} {f : Cells 8 Count} (hsum : freqSum f < 2 ^ 32)
    (hkeys : 1 ≤ keyCount f) :
    FullTree (finalBuilder before f).arena (finalBuilder before f).root
      (BitVec.ofNat 9 (keyCount f + (finalBuilder before f).merges)) (keyCount f) := by
  obtain ⟨hsound, ⟨c, hc⟩, -⟩ := finalBuilder_done (before := before) hsum hkeys
  rw [keyCount_eq_length]
  exact hsound.fullTree hc

theorem Builder.root_of_one_cand {b : Builder} {c : Cand} (hc : b.cands = [c]) : b.root = c.handle := by
  rw [Builder.root, hc]

/-- The one candidate left carries all frequencies. -/
theorem Builder.Sound.root_weight {f : Cells 8 Count} {b : Builder} (hb : b.Sound f) {c : Cand} (hc : b.cands = [c]) :
    (readNode b.arena b.root).weight.toNat = freqSum f := by
  have htotal := hb.total
  rw [hc, List.map_singleton, List.sum_singleton] at htotal
  rw [Builder.root_of_one_cand hc, hb.weights c (by simp [hc]), htotal, freqSum_eq_totalWeight]

/-- The internal nodes of a tree of rule R26 stand at exactly the handles 256 to `256 + n - 2`. -/
theorem FullTree.internal_iff {a : Cells 9 Node} {root : Handle} {nnode : BitVec 9} {n : Nat}
    (ht : FullTree a root nnode n) {h : Handle} (h256 : 256 ≤ h.toNat) :
    ((∃ w l r, readNode a h = .internal w l r) ↔ h.toNat < 256 + (n - 1)) ∧
      (256 + (n - 1) ≤ h.toNat → readNode a h = .invalid) := by
  have hint := ht.internals h h256
  split at hint
  next hlt => exact ⟨iff_of_true hint hlt, fun hge => absurd hlt (Nat.not_lt.mpr hge)⟩
  next hge => exact ⟨iff_of_false (by simp [hint]) hge, fun _ => hint⟩

/-- Settles O20: the builder's arena is a full tree over the present keys (rule R26). -/
theorem buildShape : Obligations.BuildShape := by
  rintro s n hclear hsum rfl hkeys
  obtain ⟨hsound, ⟨c, hc⟩, hmerges⟩ := finalBuilder_done (before := candBefore) hsum hkeys
  have htree := finalBuilder_fullTree (before := candBefore) hsum hkeys
  have hcount : 2 * keyCount s.freq - 1 = keyCount s.freq + (finalBuilder candBefore s.freq).merges := by omega
  have hroot := htree.root_eq
  refine ⟨(finalBuilder candBefore s.freq).arena, (finalBuilder candBefore s.freq).root, ?_, hsound.forest.leaves,
    fun h h256 => htree.internal_iff h256, hsound.root_weight hc, fun htwo => ?_, fun hone => ?_⟩
  · rw [exec_build_fits hclear hsum, hcount]
    rfl
  · rwa [if_neg (by omega)] at hroot
  · rw [if_pos hone] at hroot
    obtain ⟨hlt, hvalid⟩ := hroot
    rw [← leafHandle_handleSym hlt, hsound.forest.leaves] at hvalid
    exact ⟨_, fun hzero => hvalid (if_pos hzero), (leafHandle_handleSym hlt).symm⟩

/-! ## Taking the least candidates under an order (rule R131) -/

/-- `R` is a transitive "no later than" to which the builder's comparison keeps. -/
structure Respects (before : Cand → Cand → Bool) (R : Cand → Cand → Prop) : Prop where
  trans : ∀ {x y z}, R x y → R y z → R x z
  yes : ∀ {x y}, before x y = true → R x y
  no : ∀ {x y}, before x y = false → R y x

section Respects
variable {before : Cand → Cand → Bool} {R : Cand → Cand → Prop} (hR : Respects before R)
include hR

/-- The candidate taken is no later than any other. -/
theorem Respects.takeLeast {q rest : List Cand} {m : Cand} (h : takeLeast before q = some (m, rest)) :
    ∀ z ∈ rest, R m z := by
  induction q generalizing m rest with
  | nil => cases h
  | cons c cs ih =>
    simp only [Machine.takeLeast] at h
    split at h
    · cases h
      exact nofun
    next m' rest' hsome =>
      have hleast := ih hsome
      split at h
      next hyes =>
        cases h
        intro z hz
        rcases List.mem_cons.mp ((takeLeast_perm hsome).mem_iff.mp hz) with rfl | hz
        · exact hR.yes hyes
        · exact hR.trans (hR.yes hyes) (hleast z hz)
      next hno =>
        cases h
        exact List.forall_mem_cons.mpr ⟨hR.no (Bool.eq_false_of_not_eq_true hno), hleast⟩

/-- The first candidate taken is no later than the second, and the second no later than any other. -/
theorem Respects.takeTwo {q rest : List Cand} {x y : Cand} (h : takeTwo before q = some (x, y, rest)) :
    R x y ∧ ∀ z ∈ rest, R y z := by
  unfold Machine.takeTwo at h
  split at h
  · cases h
  next _ q1 hfirst =>
    split at h
    · cases h
    next hsecond =>
      cases h
      exact ⟨hR.takeLeast hfirst y ((takeLeast_perm hsecond).mem_iff.mpr (by simp)), hR.takeLeast hsecond⟩

end Respects

/-- What every merge of the two candidates taken keeps, the loop keeps. -/
theorem mergeLoop_keeps_taken {before : Cand → Cand → Bool} {P : Builder → Prop}
    (hstep : ∀ {b x y rest}, P b → takeTwo before b.cands = some (x, y, rest) → P (mergeNode b x y rest)) (fuel : Nat)
    {b : Builder} (hb : P b) : P (mergeLoop before fuel b) := by
  induction fuel generalizing b with
  | zero => exact hb
  | succ fuel ih =>
    simp only [mergeLoop]
    split
    · exact hb
    · exact ih (hstep hb ‹_›)

/-! ## One merge of a sound builder (rule R133) -/

/-- The two candidates taken and the others are candidates. -/
theorem taken_mem {q rest : List Cand} {x y : Cand} (hperm : q.Perm (x :: y :: rest)) :
    x ∈ q ∧ y ∈ q ∧ ∀ z ∈ rest, z ∈ q :=
  ⟨hperm.mem_iff.mpr (by simp), hperm.mem_iff.mpr (by simp), fun z hz => hperm.mem_iff.mpr (by simp [hz])⟩

/-- The new node stands at the merge's handle. -/
theorem mergeNode_readNode_new {b : Builder} (hk : b.merges < 255) (x y : Cand) (rest : List Cand) :
    readNode (mergeNode b x y rest).arena (mergeHandle b.merges) =
      .internal (x.weight + y.weight) x.handle y.handle := by
  rw [mergeNode_arena, readNode_writeNode _ _ _ _ (mergeHandle_ne_none hk), if_pos rfl]

section Sound
variable {f : Cells 8 Count} {b : Builder} (hb : b.Sound f)
include hb

theorem Builder.Sound.cand_valid {z : Cand} (hz : z ∈ b.cands) : readNode b.arena z.handle ≠ .invalid :=
  ((hb.roots _).mp (List.mem_map_of_mem hz)).1

/-- The candidates stand at other handles than the next merge's node. -/
theorem Builder.Sound.handle_ne_mergeHandle (hk : b.merges < 255) {z : Cand} (hz : z ∈ b.cands) :
    z.handle ≠ mergeHandle b.merges :=
  hb.forest.ne_mergeHandle hk (hb.cand_valid hz)

variable {x y : Cand} {rest : List Cand} (hperm : b.cands.Perm (x :: y :: rest))
include hperm

/-- With two candidates there is room for one more merge. -/
theorem Builder.Sound.merges_lt : b.merges < 255 := by
  have hcount := hb.count
  rw [hperm.length_eq, List.length_cons, List.length_cons] at hcount
  have := presentKeys_length_le f
  omega

/-- The candidates stand at different handles. -/
theorem Builder.Sound.handles_ne :
    x.handle ≠ y.handle ∧ ∀ z ∈ rest, z.handle ≠ x.handle ∧ z.handle ≠ y.handle := by
  have hnodup := (hperm.map Cand.handle).nodup_iff.mp hb.nodup
  simp only [List.map_cons, List.nodup_cons, List.mem_cons, List.mem_map, not_or, not_exists, not_and] at hnodup
  obtain ⟨⟨hxy, hx⟩, hy, -⟩ := hnodup
  exact ⟨hxy, fun z hz => ⟨hx z hz, hy z hz⟩⟩

/-- The new weight does not wrap, since all weights together are the sum of all frequencies. -/
theorem Builder.Sound.weight_add (hf : totalWeight f < 2 ^ 32) :
    (x.weight + y.weight).toNat = x.weight.toNat + y.weight.toNat := by
  have htotal := hb.total
  rw [(hperm.map _).sum_eq, List.map_cons, List.map_cons, List.sum_cons, List.sum_cons] at htotal
  exact BitVec.toNat_add_of_lt (by omega)

end Sound

/-! ## Each merge is greedy (rules R131, R133) -/

/-- This hardware's order: smaller weight first, then no greater handle (rule R131). -/
def CandLE (x y : Cand) : Prop :=
  x.weight.toNat < y.weight.toNat ∨ (x.weight = y.weight ∧ x.handle.toNat ≤ y.handle.toNat)

theorem candBefore_iff (x y : Cand) :
    candBefore x y = true ↔
      x.weight.toNat < y.weight.toNat ∨ (x.weight = y.weight ∧ x.handle.toNat < y.handle.toNat) := by
  simp [candBefore, BitVec.lt_def]

theorem candBefore_respects : Respects candBefore CandLE where
  trans := by
    rintro x y z (hxy | ⟨hxy, hxy'⟩) (hyz | ⟨hyz, hyz'⟩)
    · exact .inl (hxy.trans hyz)
    · exact .inl (hyz ▸ hxy)
    · exact .inl (hxy ▸ hyz)
    · exact .inr ⟨hxy.trans hyz, hxy'.trans hyz'⟩
  yes h := ((candBefore_iff _ _).mp h).imp_right fun ⟨hw, hh⟩ => ⟨hw, hh.le⟩
  no {x y} h := by
    have hnot := mt (candBefore_iff x y).mpr (Bool.eq_false_iff.mp h)
    rw [CandLE]
    bv_omega

/-- What rules R131 and R133 say of merge number `k`, in an arena that holds its node. -/
def GreedyAt (a : Cells 9 Node) (k : Nat) : Prop :=
  ∃ w l r, readNode a (mergeHandle k) = .internal w l r ∧
    CandidateAt a k l ∧ CandidateAt a k r ∧ l ≠ r ∧
    (∀ x, CandidateAt a k x → x ≠ l → NodeBefore a l x) ∧
    (∀ x, CandidateAt a k x → x ≠ l → x ≠ r → NodeBefore a r x) ∧
    w.toNat = (readNode a l).weight.toNat + (readNode a r).weight.toNat

/-- Two arenas hold the same nodes at the handles below a bound. -/
def AgreeBelow (m : Nat) (a a' : Cells 9 Node) : Prop :=
  ∀ h : Handle, h.toNat < m → readNode a' h = readNode a h

section Agree
variable {m k : Nat} {a a' : Cells 9 Node} (ha : AgreeBelow m a a')
include ha

theorem AgreeBelow.candidateAt (hk : 256 + k ≤ m) (h : Handle) : CandidateAt a' k h ↔ CandidateAt a k h := by
  have hread {i : Handle} (hi : i.toNat < 256 + k) : readNode a' i = readNode a i := ha i (hi.trans_le hk)
  simp only [CandidateAt, IsChild]
  constructor
  all_goals
    rintro ⟨hv, hlt, hno⟩
    refine ⟨by simpa only [hread hlt] using hv, hlt, fun p hp => ?_⟩
    simpa only [hread hp] using hno p hp

/-- What rule R131 says of a merge depends on the nodes up to its own only. -/
theorem AgreeBelow.greedyAt (hm : 256 + k < m) (hk : k < 255) (hg : GreedyAt a k) : GreedyAt a' k := by
  obtain ⟨w, l, r, hnode, hl, hr, hlr, hfirst, hsecond, hw⟩ := hg
  have hread {i : Handle} : CandidateAt a k i → readNode a' i = readNode a i := fun ⟨_, hlt, _⟩ => ha i (hlt.trans hm)
  have hbefore {i j : Handle} (hi : CandidateAt a k i) (hj : CandidateAt a k j) :
      NodeBefore a' i j ↔ NodeBefore a i j := by
    rw [NodeBefore, hread hi, hread hj, NodeBefore]
  have hcand := ha.candidateAt hm.le
  refine ⟨w, l, r, ?_, (hcand l).mpr hl, (hcand r).mpr hr, hlr, fun x hx hxl => ?_, fun x hx hxl hxr => ?_, ?_⟩
  · rw [ha _ (by rwa [mergeHandle_toNat hk]), hnode]
  · rw [hcand] at hx
    exact (hbefore hl hx).mpr (hfirst x hx hxl)
  · rw [hcand] at hx
    exact (hbefore hr hx).mpr (hsecond x hx hxl hxr)
  · rw [hread hl, hread hr, hw]

end Agree

/-- A merge leaves the nodes below its own as they are. -/
theorem agreeBelow_writeNode (a : Cells 9 Node) {k : Nat} (hk : k < 255) (n : Node) :
    AgreeBelow (256 + k) a (writeNode a (mergeHandle k) n) := by
  intro h hlt
  rw [readNode_writeNode _ _ _ _ (mergeHandle_ne_none hk), if_neg]
  rintro rfl
  rw [mergeHandle_toNat hk] at hlt
  exact Nat.lt_irrefl _ hlt

/-- The candidates of the next merge are the roots of the forest. -/
theorem Forest.candidateAt_iff {f : Cells 8 Count} {k : Nat} {a : Cells 9 Node} (hF : Forest f k a) (h : Handle) :
    CandidateAt a k h ↔ IsRoot a h := by
  constructor
  · rintro ⟨hv, -, hno⟩
    refine ⟨hv, fun p hp => ?_⟩
    have ⟨w, l, r, e, _⟩ := hp
    exact hno p (hF.internal_range e).2 hp
  · rintro ⟨hv, hno⟩
    exact ⟨hv, hF.valid_lt hv, fun p _ => hno p⟩

/-- The candidates of a sound builder are those of its next merge. -/
theorem Builder.Sound.candidateAt_iff {f : Cells 8 Count} {b : Builder} (hb : b.Sound f) (h : Handle) :
    CandidateAt b.arena b.merges h ↔ ∃ z ∈ b.cands, z.handle = h := by
  rw [hb.forest.candidateAt_iff, ← hb.roots, List.mem_map]

/-- The order on the candidates is the order on their nodes, also after the next merge. -/
theorem Builder.Sound.nodeBefore {f : Cells 8 Count} {b : Builder} (hb : b.Sound f) {a : Cells 9 Node}
    (ha : AgreeBelow (256 + b.merges) b.arena a) {x z : Cand} (hx : x ∈ b.cands) (hz : z ∈ b.cands) (hle : CandLE x z)
    (hne : z.handle ≠ x.handle) : NodeBefore a x.handle z.handle := by
  have hweight {i : Cand} (hi : i ∈ b.cands) : (readNode a i.handle).weight = i.weight := by
    rw [ha _ (hb.forest.valid_lt (hb.cand_valid hi)), hb.weights i hi]
  rw [NodeBefore, hweight hx, hweight hz]
  exact hle.imp_right fun ⟨hw, hh⟩ => ⟨hw, by bv_omega⟩

/-- The children of the next merge are the least and the second-least root. -/
theorem Builder.Sound.greedyAt_mergeNode {f : Cells 8 Count} (hf : totalWeight f < 2 ^ 32) {b : Builder}
    (hb : b.Sound f) {x y : Cand} {rest : List Cand} (htwo : takeTwo candBefore b.cands = some (x, y, rest)) :
    GreedyAt (Machine.mergeNode b x y rest).arena b.merges := by
  have hperm := takeTwo_perm htwo
  have hk := hb.merges_lt hperm
  obtain ⟨hx, hy, -⟩ := taken_mem hperm
  obtain ⟨hxy, hrest⟩ := candBefore_respects.takeTwo htwo
  have hnode := mergeNode_readNode_new hk x y rest
  have hagree : AgreeBelow (256 + b.merges) b.arena (Machine.mergeNode b x y rest).arena :=
    agreeBelow_writeNode b.arena hk _
  have hcand (h : Handle) :
      CandidateAt (Machine.mergeNode b x y rest).arena b.merges h ↔ ∃ z ∈ b.cands, z.handle = h := by
    rw [hagree.candidateAt le_rfl, hb.candidateAt_iff]
  obtain ⟨hlr, -, -, -, -, hw⟩ := (hb.mergeNode hf hperm).forest.children _ _ _ _ hnode
  refine ⟨_, _, _, hnode, (hcand _).mpr ⟨x, hx, rfl⟩, (hcand _).mpr ⟨y, hy, rfl⟩, hlr, fun h hh hne => ?_,
    fun h hh hnx hny => ?_, hw⟩
  all_goals
    obtain ⟨z, hz, rfl⟩ := (hcand h).mp hh
    have hmem := hperm.mem_iff.mp hz
    simp only [List.mem_cons] at hmem
  · obtain rfl | rfl | hzrest := hmem
    · exact absurd rfl hne
    · exact hb.nodeBefore hagree hx hz hxy hne
    · exact hb.nodeBefore hagree hx hz (candBefore_respects.trans hxy (hrest z hzrest)) hne
  · obtain rfl | rfl | hzrest := hmem
    · exact absurd rfl hnx
    · exact absurd rfl hny
    · exact hb.nodeBefore hagree hy hz (hrest z hzrest) hny

/-- Every merge of the loop is greedy. -/
theorem finalBuilder_greedyAt {f : Cells 8 Count} (hf : totalWeight f < 2 ^ 32) :
    ∀ k < (finalBuilder candBefore f).merges, GreedyAt (finalBuilder candBefore f).arena k := by
  refine (mergeLoop_keeps_taken (P := fun b => b.Sound f ∧ ∀ k < b.merges, GreedyAt b.arena k) ?_ _
    ⟨initialBuilder_sound f, nofun⟩).2
  rintro b x y rest ⟨hb, hearlier⟩ htwo
  refine ⟨hb.mergeNode hf (takeTwo_perm htwo), fun k hk => ?_⟩
  have hroom := hb.merges_lt (takeTwo_perm htwo)
  obtain rfl | hlt := (Nat.lt_succ_iff_lt_or_eq.mp hk).symm
  · exact hb.greedyAt_mergeNode hf htwo
  · exact (agreeBelow_writeNode b.arena hroom _).greedyAt (by omega) (by omega) (hearlier k hlt)

/-- A `BUILD` that completes without a fault had frequencies that fit. -/
theorem built_of_no_fault {s t : State} (hclear : s.fault = false) (hexec : exec .build s = .next t)
    (ht : t.fault = false) : freqSum s.freq < 2 ^ 32 ∧ t = s.built := by
  by_cases hsum : freqSum s.freq < 2 ^ 32
  · exact ⟨hsum, by simpa using hexec.symm.trans (exec_build_fits hclear hsum)⟩
  · rw [exec_build_overflow hclear (Nat.le_of_not_lt hsum)] at hexec
    cases hexec
    cases ht

/-- Settles O23: the loop keeps that each merge so far took the two least candidates, because a merge's candidates are
the roots of the forest before it, and later merges leave the nodes below theirs as they are. -/
theorem buildMergesGreedily : Obligations.BuildMergesGreedily := by
  intro s t hclear hexec ht k hk
  obtain ⟨hsum, rfl⟩ := built_of_no_fault hclear hexec ht
  obtain ⟨-, -, hmerges⟩ := finalBuilder_done (before := candBefore) hsum (by omega)
  exact finalBuilder_greedyAt hsum k (by omega)

/-! ## Paths in an arena (rule R151) -/

/-- From a handle without an internal node only the empty path leads on, to the handle's own leaf. -/
theorem leadsTo_iff_of_no_internal {a : Cells 9 Node} {h : Handle} (hh : ∀ w l r, readNode a h ≠ .internal w l r)
    (q : Bits) (k : Byte) : LeadsTo a h q k ↔ q = [] ∧ h = leafHandle k := by
  constructor
  · intro hq
    cases hq with
    | here => exact ⟨rfl, rfl⟩
    | left hn => exact absurd hn (hh _ _ _)
    | right hn => exact absurd hn (hh _ _ _)
  · rintro ⟨rfl, rfl⟩
    exact .here k

/-- From an internal node a path leads down one of the two edges. -/
theorem leadsTo_internal_iff {a : Cells 9 Node} {h l r : Handle} {w : Count} (hn : readNode a h = .internal w l r)
    (h256 : 256 ≤ h.toNat) (q : Bits) (k : Byte) :
    LeadsTo a h q k ↔ ∃ q', (q = false :: q' ∧ LeadsTo a l q' k) ∨ (q = true :: q' ∧ LeadsTo a r q' k) := by
  constructor
  · intro hq
    cases hq with
    | here => exact absurd (leafHandle_lt k) (Nat.not_lt.mpr h256)
    | left hn' hq =>
      cases hn.symm.trans hn'
      exact ⟨_, .inl ⟨rfl, hq⟩⟩
    | right hn' hq =>
      cases hn.symm.trans hn'
      exact ⟨_, .inr ⟨rfl, hq⟩⟩
  · rintro ⟨q', ⟨rfl, hq⟩ | ⟨rfl, hq⟩⟩
    · exact .left hn hq
    · exact .right hn hq

/-- A path is the same in two arenas with the same nodes on a set of handles closed under children. -/
theorem LeadsTo.congr {a a' : Cells 9 Node} {S : Handle → Prop} (hread : ∀ h, S h → readNode a' h = readNode a h)
    (hclosed : ∀ p h, S p → IsChild a p h → S h) {h : Handle} {q : Bits} {k : Byte} (hq : LeadsTo a h q k) (hh : S h) :
    LeadsTo a' h q k := by
  induction hq with
  | here k => exact .here k
  | left hn _ ih => exact .left ((hread _ hh).trans hn) (ih (hclosed _ _ hh ⟨_, _, _, hn, .inl rfl⟩))
  | right hn _ ih => exact .right ((hread _ hh).trans hn) (ih (hclosed _ _ hh ⟨_, _, _, hn, .inr rfl⟩))

/-- A merge changes no path from a node that was there before. -/
theorem Forest.leadsTo_merge_iff {f : Cells 8 Count} {m : Nat} {a : Cells 9 Node} (hF : Forest f m a) (hm : m < 255)
    (n : Node) {h : Handle} (hv : readNode a h ≠ .invalid) (q : Bits) (k : Byte) :
    LeadsTo (writeNode a (mergeHandle m) n) h q k ↔ LeadsTo a h q k := by
  have hread (i : Handle) (hi : readNode a i ≠ .invalid) :
      readNode (writeNode a (mergeHandle m) n) i = readNode a i := by
    rw [readNode_writeNode _ _ _ _ (mergeHandle_ne_none hm), if_neg (hF.ne_mergeHandle hm hi)]
  constructor
  · intro hq
    refine hq.congr (S := fun i => readNode a i ≠ .invalid) (fun i hi => (hread i hi).symm) ?_ hv
    rintro p i hp ⟨w, l, r, hn, hlr⟩
    exact hF.valid_of_isChild ⟨w, l, r, (hread p hp).symm.trans hn, hlr⟩
  · intro hq
    exact hq.congr hread (fun _ _ _ => hF.valid_of_isChild) hv

/-! ## Where the leaves stand between two merges -/

/-- For each symbol the candidate under which its leaf stands, and the path that leads from there to the leaf. -/
abbrev Trace :=
  Byte → Handle × Bits

/-- Before the first merge each leaf is a candidate. -/
def initialTrace : Trace :=
  fun k => (leafHandle k, [])

/-- A merge puts the leaves under its two children under its own node, one edge further down. -/
def Trace.merge (t : Trace) (l r h : Handle) : Trace := fun k =>
  if (t k).1 = l then (h, false :: (t k).2) else if (t k).1 = r then (h, true :: (t k).2) else t k

/-- The frequencies of the leaves under a candidate, added up. -/
def Trace.weightUnder (t : Trace) (f : Cells 8 Count) (h : Handle) : Nat :=
  (allSyms.map fun k => if (t k).1 = h then (readFreq f k).toNat else 0).sum

/-- The trace tells the only path from a candidate to each leaf, and accounts for the candidates' weights. -/
structure Builder.Traced (f : Cells 8 Count) (b : Builder) (t : Trace) : Prop where
  leads : ∀ x ∈ b.cands, ∀ q k, LeadsTo b.arena x.handle q k ↔ readFreq f k ≠ 0 ∧ t k = (x.handle, q)
  owned : ∀ k, readFreq f k ≠ 0 → ∃ x ∈ b.cands, (t k).1 = x.handle
  weights : ∀ x ∈ b.cands, x.weight.toNat = t.weightUnder f x.handle

/-- The sum over the list of symbols as a sum over the set. -/
theorem sum_allSyms (g : Byte → Nat) : (allSyms.map g).sum = ∑ k ∈ allSyms.toFinset, g k :=
  (List.sum_toFinset g allSyms_nodup).symm

theorem initialBuilder_traced (f : Cells 8 Count) : (initialBuilder f).Traced f initialTrace where
  leads x hx q k := by
    obtain ⟨i, hi, rfl⟩ := List.mem_map.mp hx
    refine (leadsTo_iff_of_no_internal (fun w l r => leafArena_no_internal f _ l r w) q k).trans ?_
    simp only [initialTrace, leafHandle_injective.eq_iff, Prod.mk.injEq]
    constructor
    · rintro ⟨rfl, rfl⟩
      exact ⟨mem_presentKeys.mp hi, rfl, rfl⟩
    · rintro ⟨-, rfl, rfl⟩
      exact ⟨rfl, rfl⟩
  owned k hk := ⟨_, List.mem_map_of_mem (mem_presentKeys.mpr hk), rfl⟩
  weights x hx := by
    obtain ⟨i, -, rfl⟩ := List.mem_map.mp hx
    simp only [Trace.weightUnder, initialTrace, leafHandle_injective.eq_iff, sum_allSyms, Finset.sum_ite_eq']
    rw [if_pos (List.mem_toFinset.mpr (mem_allSyms i))]

section TraceMerge
variable {f : Cells 8 Count} {t : Trace} {l r h i : Handle} {k : Byte}

/-- The leaves under another candidate stay where they are. -/
theorem Trace.merge_other (hih : i ≠ h) (hil : i ≠ l) (hir : i ≠ r) (q : Bits) :
    t.merge l r h k = (i, q) ↔ t k = (i, q) := by
  simp only [Trace.merge, Prod.ext_iff]
  by_cases hl : (t k).1 = l
  · simp [hl, hih.symm, hil.symm]
  by_cases hr : (t k).1 = r
  · simp [hr, (hr ▸ hl : r ≠ l), hih.symm, hir.symm]
  · simp [hl, hr]

theorem Trace.merge_fst_other (hih : i ≠ h) (hil : i ≠ l) (hir : i ≠ r) :
    (t.merge l r h k).1 = i ↔ (t k).1 = i :=
  ⟨fun e => congrArg Prod.fst ((Trace.merge_other hih hil hir _).mp (Prod.ext e rfl)),
    fun e => congrArg Prod.fst ((Trace.merge_other hih hil hir _).mpr (Prod.ext e rfl))⟩

/-- The leaves under the new node are those of its children. -/
theorem Trace.merge_new (hlr : l ≠ r) (hh : (t k).1 ≠ h) (q : Bits) :
    t.merge l r h k = (h, q) ↔ ∃ q', (q = false :: q' ∧ t k = (l, q')) ∨ (q = true :: q' ∧ t k = (r, q')) := by
  simp only [Trace.merge, Prod.ext_iff]
  by_cases hl : (t k).1 = l
  · simp [hl, hlr, eq_comm]
  by_cases hr : (t k).1 = r
  · simp [hr, hlr.symm, eq_comm]
  · simp [hl, hr, hh]

theorem Trace.weightUnder_merge_other (hih : i ≠ h) (hil : i ≠ l) (hir : i ≠ r) :
    (t.merge l r h).weightUnder f i = t.weightUnder f i := by
  simp only [Trace.weightUnder, Trace.merge_fst_other hih hil hir]

theorem Trace.weightUnder_merge_new (hlr : l ≠ r) (hh : ∀ k, readFreq f k ≠ 0 → (t k).1 ≠ h) :
    (t.merge l r h).weightUnder f h = t.weightUnder f l + t.weightUnder f r := by
  rw [Trace.weightUnder, Trace.weightUnder, Trace.weightUnder, ← List.sum_map_add]
  congr 1
  refine List.map_congr_left fun k _ => ?_
  by_cases hk : readFreq f k = 0
  · simp [hk]
  by_cases hl : (t k).1 = l
  · simp [Trace.merge, hl, hlr]
  by_cases hr : (t k).1 = r
  · simp [Trace.merge, hr, hlr.symm]
  · simp [Trace.merge, hl, hr, hh k hk]

/-- A merge makes the code of each leaf under its node one bit longer. -/
theorem Trace.cost_merge (hlr : l ≠ r) :
    cost f (fun k => (t.merge l r h k).2) = cost f (fun k => (t k).2) + (t.weightUnder f l + t.weightUnder f r) := by
  rw [cost, cost, Trace.weightUnder, Trace.weightUnder, ← List.sum_map_add, ← List.sum_map_add]
  congr 1
  refine List.map_congr_left fun k _ => ?_
  by_cases hl : (t k).1 = l
  · simp [Trace.merge, hl, hlr, Nat.mul_succ]
  by_cases hr : (t k).1 = r
  · simp [Trace.merge, hr, hlr.symm, Nat.mul_succ]
  · simp [Trace.merge, hl, hr]

end TraceMerge

section Merge
variable {f : Cells 8 Count} {b : Builder} {x y : Cand} {rest : List Cand} {t : Trace} (hb : b.Sound f)
  (ht : b.Traced f t)
include hb ht

/-- No leaf stands under the next merge's node yet. -/
theorem Builder.Traced.ne_mergeHandle (hk : b.merges < 255) {k : Byte} (hkey : readFreq f k ≠ 0) :
    (t k).1 ≠ mergeHandle b.merges := by
  obtain ⟨z, hz, e⟩ := ht.owned k hkey
  exact e ▸ hb.handle_ne_mergeHandle hk hz

/-- A merge changes no path from an earlier candidate. -/
theorem Builder.Traced.leads_mergeNode (hk : b.merges < 255) {z : Cand} (hz : z ∈ b.cands)
    (q : Bits) (k : Byte) :
    LeadsTo (mergeNode b x y rest).arena z.handle q k ↔ readFreq f k ≠ 0 ∧ t k = (z.handle, q) :=
  (hb.forest.leadsTo_merge_iff hk _ (hb.cand_valid hz) q k).trans (ht.leads z hz q k)

/-- A merge keeps the trace (rules R133, R151). -/
theorem Builder.Traced.mergeNode (hf : totalWeight f < 2 ^ 32) (hperm : b.cands.Perm (x :: y :: rest)) :
    (mergeNode b x y rest).Traced f (t.merge x.handle y.handle (mergeHandle b.merges)) := by
  have hk := hb.merges_lt hperm
  obtain ⟨hx, hy, hmem⟩ := taken_mem hperm
  obtain ⟨hxy, hother⟩ := hb.handles_ne hperm
  have hfresh {z : Cand} (hz : z ∈ rest) := hb.handle_ne_mergeHandle hk (hmem z hz)
  have hcands {P : Cand → Prop} (hold : ∀ z ∈ rest, P z) (hnew : P ⟨mergeHandle b.merges, x.weight + y.weight⟩) :
      ∀ z ∈ (Machine.mergeNode b x y rest).cands, P z :=
    List.forall_mem_append.mpr ⟨hold, List.forall_mem_singleton.mpr hnew⟩
  constructor
  case leads =>
    have h256 : 256 ≤ (mergeHandle b.merges).toNat := by
      rw [mergeHandle_toNat hk]
      omega
    refine hcands (fun z hz q k => ?_) fun q k => ?_
    · rw [ht.leads_mergeNode hb hk (hmem z hz),
        Trace.merge_other (hfresh hz) (hother z hz).1 (hother z hz).2]
    · rw [leadsTo_internal_iff (mergeNode_readNode_new hk x y rest) h256]
      simp only [ht.leads_mergeNode hb hk hx, ht.leads_mergeNode hb hk hy]
      by_cases hkey : readFreq f k = 0
      · simp only [hkey, ne_eq, not_true_eq_false, false_and, and_false, or_self, exists_false]
      · simp only [hkey, ne_eq, not_false_eq_true, true_and, Trace.merge_new hxy (ht.ne_mergeHandle hb hk hkey)]
  case owned =>
    intro k hkey
    have hnew : (⟨mergeHandle b.merges, x.weight + y.weight⟩ : Cand) ∈ (Machine.mergeNode b x y rest).cands := by
      simp
    obtain ⟨z, hz, e⟩ := ht.owned k hkey
    have hcases := hperm.mem_iff.mp hz
    simp only [List.mem_cons] at hcases
    obtain rfl | rfl | hz' := hcases
    · exact ⟨_, hnew, by simp only [Trace.merge, e, if_true]⟩
    · exact ⟨_, hnew, by simp only [Trace.merge, e, hxy.symm, if_true, if_false]⟩
    · exact ⟨z, List.mem_append_left _ hz',
        (Trace.merge_fst_other (hfresh hz') (hother z hz').1 (hother z hz').2).mpr e⟩
  case weights =>
    refine hcands (fun z hz => ?_) ?_
    · rw [Trace.weightUnder_merge_other (hfresh hz) (hother z hz).1 (hother z hz).2, ht.weights z (hmem z hz)]
    · rw [Trace.weightUnder_merge_new hxy fun k => ht.ne_mergeHandle hb hk, ← ht.weights x hx, ← ht.weights y hy,
        hb.weight_add hperm hf]

end Merge

theorem finalBuilder_traced {before : Cand → Cand → Bool} {f : Cells 8 Count} (hf : totalWeight f < 2 ^ 32) :
    ∃ t, (finalBuilder before f).Traced f t := by
  refine (mergeLoop_keeps (P := fun b => b.Sound f ∧ ∃ t, b.Traced f t) ?_ _
    ⟨initialBuilder_sound f, _, initialBuilder_traced f⟩).2
  rintro b x y rest ⟨hb, t, ht⟩ hperm
  exact ⟨hb.mergeNode hf hperm, _, ht.mergeNode hb hf hperm⟩

/-- When one candidate is left, the trace tells the paths from the root. -/
theorem Builder.Traced.leadsTo_root {f : Cells 8 Count} {b : Builder} {t : Trace} (ht : b.Traced f t) {c : Cand}
    (hc : b.cands = [c]) (q : Bits) (k : Byte) : LeadsTo b.arena b.root q k ↔ readFreq f k ≠ 0 ∧ (t k).2 = q := by
  rw [Builder.root_of_one_cand hc, ht.leads c (by simp [hc])]
  refine and_congr_right fun hkey => ?_
  obtain ⟨z, hz, e⟩ := ht.owned k hkey
  obtain rfl : z = c := by simpa [hc] using hz
  exact ⟨congrArg Prod.snd, fun hq => Prod.ext e hq⟩

/-! ## The codes of the tree (rules R138, R151, R154) -/

theorem handleSym_leafHandle (b : Byte) : handleSym (leafHandle b) = b :=
  leafHandle_injective (leafHandle_handleSym (leafHandle_lt b))

/-- A path from a handle of the internal range has an edge. -/
theorem LeadsTo.ne_nil {a : Cells 9 Node} {h : Handle} {q : Bits} {k : Byte} (hq : LeadsTo a h q k)
    (h256 : 256 ≤ h.toNat) : q ≠ [] := by
  rintro rfl
  cases hq
  exact absurd (leafHandle_lt k) (Nat.not_lt.mpr h256)

section CodeBelow
variable {label : Bool} {a : Cells 9 Node} {n : Nat} {h l r : Handle} {w : Count} {p code : Bits} {k : Byte}
  (hn : readNode a h = .internal w l r)
include hn

theorem CodeBelow.left (hcode : CodeBelow label a n l (p ++ [label]) k code) :
    CodeBelow label a (n + 1) h p k code := by
  obtain ⟨q, rfl, hlen, hq⟩ := hcode
  exact ⟨false :: q, by simp [labelled], Nat.succ_le_succ hlen, .left hn hq⟩

theorem CodeBelow.right (hcode : CodeBelow label a n r (p ++ [!label]) k code) :
    CodeBelow label a (n + 1) h p k code := by
  obtain ⟨q, rfl, hlen, hq⟩ := hcode
  exact ⟨true :: q, by simp [labelled], Nat.succ_le_succ hlen, .right hn hq⟩

end CodeBelow

/-- The walk gives a code to every leaf below its start. -/
theorem walk_writes {label : Bool} {a : Cells 9 Node} (ha : LeavesEndPaths a) {fuel : Nat} {h : Handle} {p q : Bits}
    {c c' : Cells 8 Bits} (hw : walk label a fuel h p c = some c') {k : Byte} (hq : LeadsTo a h q k) :
    CodeBelow label a fuel h p k (readCode c' k) := by
  induction fuel using Nat.strong_induction_on generalizing h p q c c' with
  | _ fuel ih =>
    obtain ⟨hlt, rfl⟩ | ⟨n, w, l, r, cl, rfl, hn, hl, hr⟩ := walk_some_cases hw
    · obtain ⟨b, rfl⟩ : ∃ b, leafHandle b = h := ⟨_, leafHandle_handleSym hlt⟩
      obtain rfl : b = k := leadsTo_leafHandle ha hq rfl
      exact ⟨[], by simp [handleSym_leafHandle, labelled], Nat.zero_le _, .here b⟩
    · cases hq with
      | here => exact absurd hn (ha _ _ _ _)
      | left hn' hq =>
        cases hn.symm.trans hn'
        obtain hkeep | hcr := walk_reads hr k
        · exact hkeep ▸ (ih n n.lt_succ_self hl hq).left hn
        · exact hcr.right hn
      | right hn' hq =>
        cases hn.symm.trans hn'
        exact (ih n n.lt_succ_self hr hq).right hn

/-- What the walk from the root makes of each entry. -/
theorem walk_root_reads {label : Bool} {a : Cells 9 Node} {root : Handle} {c : Cells 8 Bits} (ha : LeavesEndPaths a)
    (hw : walk label a Config.maxLen root [] [] = some c) (k : Byte) :
    (∃ q, readCode c k = labelled label q ∧ LeadsTo a root q k) ∨ (readCode c k = [] ∧ ∀ q, ¬ LeadsTo a root q k) := by
  by_cases hleads : ∃ q, LeadsTo a root q k
  · obtain ⟨q, hq⟩ := hleads
    obtain ⟨q', hcode, -, hq'⟩ := walk_writes ha hw hq
    exact .inl ⟨q', hcode, hq'⟩
  · rw [not_exists] at hleads
    obtain hnone | ⟨q, -, -, hq⟩ := walk_reads hw k
    · exact .inr ⟨hnone, hleads⟩
    · exact absurd hq (hleads q)

/-- With two keys or more the root is an internal node, so `ASSIGN` walks the tree. -/
theorem codesOfTree_of_internal_root {label : Bool} {a : Cells 9 Node} {root : Handle} {nnode : BitVec 9} {n : Nat}
    (ht : FullTree a root nnode n) (hn : 2 ≤ n) :
    256 ≤ root.toNat ∧ codesOfTree label a root = walk label a Config.maxLen root [] [] := by
  have hroot := ht.root_eq
  have hle := ht.le_256
  rw [if_neg (by omega)] at hroot
  have hnone : root ≠ Config.none := by
    rintro rfl
    have : Config.none.toNat = 511 := rfl
    omega
  have hleaf : ¬ isLeafHandle root = true := by
    rw [isLeafHandle_iff]
    omega
  exact ⟨by omega, by rw [codesOfTree, if_neg hnone, if_neg hleaf]⟩

/-- The codes of a table with two keys or more are the traced paths, labelled. -/
theorem finalBuilder_codes {before : Cand → Cand → Bool} {f : Cells 8 Count} (label : Bool)
    (hsum : freqSum f < 2 ^ 32) (hkeys : 2 ≤ keyCount f) {t : Trace} (ht : (finalBuilder before f).Traced f t) :
    ∃ c, codesOfTree label (finalBuilder before f).arena (finalBuilder before f).root = some c ∧ PrefixFree c ∧
      ∀ k, (readFreq f k = 0 → readCode c k = []) ∧
        (readFreq f k ≠ 0 → readCode c k = labelled label (t k).2 ∧ (t k).2 ≠ []) := by
  obtain ⟨-, ⟨x, hx⟩, -⟩ := finalBuilder_done (before := before) hsum (by omega)
  have htree := finalBuilder_fullTree (before := before) hsum (by omega)
  obtain ⟨h256, hwalk⟩ := codesOfTree_of_internal_root (label := label) htree hkeys
  have hinv : TreeInv _ _ _ := .inr ⟨_, htree⟩
  obtain ⟨c, hc⟩ := hinv.codesOfTree_some label
  refine ⟨c, hc, (hinv.codeFile hc).free, fun k => ?_⟩
  have hroot := ht.leadsTo_root hx
  rcases walk_root_reads htree.leavesEndPaths (hwalk ▸ hc) k with ⟨q, hcode, hq⟩ | ⟨hnone, hno⟩
  · obtain ⟨hkey, rfl⟩ := (hroot q k).mp hq
    exact ⟨fun hzero => absurd hzero hkey, fun _ => ⟨hcode, hq.ne_nil h256⟩⟩
  · exact ⟨fun _ => hnone, fun hkey => absurd ((hroot _ k).mpr ⟨hkey, rfl⟩) (hno _)⟩

/-- The table of a lone symbol has the one-bit code (rule R152). -/
theorem codesOfTree_single {before : Cand → Cand → Bool} {f : Cells 8 Count} (label : Bool) {k : Byte}
    (hkeys : presentKeys f = [k]) :
    codesOfTree label (finalBuilder before f).arena (finalBuilder before f).root = some (writeCode [] k [false]) := by
  have hleaf : isLeafHandle (leafHandle k) = true := (isLeafHandle_iff _).mpr (leafHandle_lt k)
  rw [finalBuilder_single hkeys, codesOfTree, Builder.root, if_neg (leafHandle_ne_none k), if_pos hleaf,
    handleSym_leafHandle]

/-- Settles O30: with one key the code is the one bit of rule R152; with more the walk gives the paths to the leaves of
the tree, which are exactly the present keys, whatever the order of the merges. -/
theorem everyTieBreakIsPrefixFree : Obligations.EveryTieBreakIsPrefixFree := by
  intro before label f hsum hkeys
  obtain hone | htwo := hkeys.eq_or_lt
  · obtain ⟨b, hb⟩ := List.length_eq_one_iff.mp (hone.trans (keyCount_eq_length f)).symm
    refine ⟨_, codesOfTree_single label hb, (codeFile_lone b).free, fun k => ?_⟩
    rw [readCode_writeCode, ← mem_presentKeys, hb, List.mem_singleton]
    by_cases hk : k = b <;> simp [hk]
  · obtain ⟨t, ht⟩ := finalBuilder_traced (before := before) hsum
    obtain ⟨c, hc, hfree, hcode⟩ := finalBuilder_codes label hsum htwo ht
    refine ⟨c, hc, hfree, fun k => ⟨fun hk hzero => hk ((hcode k).1 hzero), fun hkey => ?_⟩⟩
    obtain ⟨hread, hpath⟩ := (hcode k).2 hkey
    simpa [hread, labelled] using hpath

/-! ## Kraft's inequality -/

/-- Words of which none begins another one can be told apart in a concatenation. -/
theorem uniquelyDecodable_of_prefixFree {α : Type} {S : Set (List α)} (hnil : [] ∉ S)
    (hfree : ∀ u ∈ S, ∀ v ∈ S, u <+: v → u = v) : InformationTheory.UniquelyDecodable S := by
  have hne {u : List α} {L : List (List α)} (hu : ∀ w ∈ u :: L, w ∈ S) : (u :: L).flatten ≠ [] := by
    intro h
    rw [List.flatten_cons, List.append_eq_nil_iff] at h
    exact hnil (h.1 ▸ hu u (by simp))
  intro L₁
  induction L₁ with
  | nil =>
    intro L₂ _ h₂ heq
    cases L₂ with
    | nil => rfl
    | cons v L₂ => exact absurd heq.symm (hne h₂)
  | cons u L₁ ih =>
    intro L₂ h₁ h₂ heq
    cases L₂ with
    | nil => exact absurd heq (hne h₁)
    | cons v L₂ =>
      rw [List.flatten_cons, List.flatten_cons] at heq
      obtain ⟨hu, hL₁⟩ := List.forall_mem_cons.mp h₁
      obtain ⟨hv, hL₂⟩ := List.forall_mem_cons.mp h₂
      have huv : u = v := by
        rcases List.prefix_or_prefix_of_prefix (List.prefix_append u _) (heq ▸ List.prefix_append v _) with h | h
        · exact hfree u hu v hv h
        · exact (hfree v hv u hu h).symm
      subst huv
      rw [ih L₂ hL₁ hL₂ (List.append_cancel_left heq)]

/-- The sum of Kraft's inequality over code lengths. -/
noncomputable def kraftSum (lengths : Multiset ℕ) : ℝ :=
  (lengths.map fun n => (1 / 2 : ℝ) ^ n).sum

@[simp] theorem kraftSum_zero : kraftSum 0 = 0 := rfl

@[simp] theorem kraftSum_cons (n : ℕ) (l : Multiset ℕ) : kraftSum (n ::ₘ l) = (1 / 2) ^ n + kraftSum l := by
  simp [kraftSum]

/-- The code words of the present keys. -/
def codeWords (f : Cells 8 Count) (code : Byte → Bits) : Finset Bits :=
  (presentKeys f).toFinset.image code

theorem mem_codeWords {f : Cells 8 Count} {code : Byte → Bits} {u : Bits} :
    u ∈ codeWords f code ↔ ∃ k ∈ presentKeys f, code k = u := by
  simp [codeWords]

section PrefixFree
variable {f : Cells 8 Count} {code : Byte → Bits} (hfree : PrefixFreeOnKeys f code)
include hfree

/-- The code word of a key begins its own only. -/
theorem PrefixFreeOnKeys.eq_of_begins {a b : Byte} (ha : a ∈ presentKeys f) (hb : b ∈ presentKeys f)
    (hab : code a <+: code b) : a = b := by
  by_contra hne
  exact hfree a b hne (mem_presentKeys.mp ha) (mem_presentKeys.mp hb) hab

/-- With two keys or more no code word is empty, as it would begin the others. -/
theorem PrefixFreeOnKeys.nil_not_mem (hkeys : 2 ≤ keyCount f) : [] ∉ codeWords f code := by
  rw [mem_codeWords]
  rintro ⟨a, ha, hcode⟩
  have hall : ∀ b ∈ presentKeys f, a = b := fun b hb => hfree.eq_of_begins ha hb (hcode ▸ List.nil_prefix)
  have hle := List.nodup_iff_count_le_one.mp (presentKeys_nodup f) a
  rw [List.count_eq_length.mpr hall, ← keyCount_eq_length] at hle
  omega

theorem PrefixFreeOnKeys.uniquelyDecodable (hkeys : 2 ≤ keyCount f) :
    InformationTheory.UniquelyDecodable (codeWords f code : Set Bits) := by
  refine uniquelyDecodable_of_prefixFree (hfree.nil_not_mem hkeys) fun u hu v hv huv => ?_
  obtain ⟨a, ha, rfl⟩ := mem_codeWords.mp hu
  obtain ⟨b, hb, rfl⟩ := mem_codeWords.mp hv
  rw [hfree.eq_of_begins ha hb huv]

theorem PrefixFreeOnKeys.kraftSum_le_one (hkeys : 2 ≤ keyCount f) :
    kraftSum ((presentKeys f).map fun k => (code k).length : List ℕ) ≤ 1 := by
  have hinj : Set.InjOn code (presentKeys f).toFinset := fun a ha b hb hab =>
    hfree.eq_of_begins (List.mem_toFinset.mp ha) (List.mem_toFinset.mp hb) (by rw [hab])
  calc kraftSum ((presentKeys f).map fun k => (code k).length : List ℕ)
      = ∑ k ∈ (presentKeys f).toFinset, (1 / 2 : ℝ) ^ (code k).length := by
        rw [List.sum_toFinset _ (presentKeys_nodup f)]
        simp [kraftSum, Function.comp_def]
    _ = ∑ u ∈ codeWords f code, (1 / Fintype.card Bool : ℝ) ^ u.length := by
        rw [codeWords, Finset.sum_image hinj]
        simp
    _ ≤ 1 := InformationTheory.kraft_mcmillan_inequality (hfree.uniquelyDecodable hkeys)

end PrefixFree

/-! ## Weights with code lengths: what a greedy merge costs -/

/-- The weighted sum of the lengths in a table of weights and lengths. -/
def lengthCost (L : Multiset (ℕ × ℕ)) : ℕ :=
  (L.map fun p => p.1 * p.2).sum

@[simp] theorem lengthCost_cons (w n : ℕ) (L : Multiset (ℕ × ℕ)) :
    lengthCost ((w, n) ::ₘ L) = w * n + lengthCost L := by
  simp [lengthCost]

/-- A least weight may change its length for the greatest one, and the cost does not rise. -/
theorem exists_longest_on_least {w : ℕ} (n : ℕ) {L : Multiset (ℕ × ℕ)} (hw : ∀ p ∈ L, w ≤ p.1) :
    ∃ n' L', L'.map Prod.fst = L.map Prod.fst ∧ n' ::ₘ L'.map Prod.snd = n ::ₘ L.map Prod.snd ∧
      lengthCost ((w, n') ::ₘ L') ≤ lengthCost ((w, n) ::ₘ L) ∧ ∀ p ∈ L', p.2 ≤ n' := by
  induction L using Multiset.induction_on with
  | empty => exact ⟨n, 0, rfl, rfl, le_rfl, nofun⟩
  | cons p L ih =>
    obtain ⟨v, m⟩ := p
    obtain ⟨hwv, hw⟩ := Multiset.forall_mem_cons.mp hw
    obtain ⟨n', L', hfst, hsnd, hcost, hmax⟩ := ih hw
    simp only [lengthCost_cons, Multiset.map_cons] at hcost ⊢
    rcases le_total m n' with hm | hm
    · refine ⟨n', (v, m) ::ₘ L', by simp [hfst], ?_, ?_, Multiset.forall_mem_cons.mpr ⟨hm, hmax⟩⟩
      · rw [Multiset.map_cons, Multiset.cons_swap, hsnd, Multiset.cons_swap]
      · rw [lengthCost_cons]
        omega
    · refine ⟨m, (v, n') ::ₘ L', by simp [hfst], by simp [hsnd, Multiset.cons_swap], ?_, ?_⟩
      · have hswap : w * m + v * n' ≤ w * n' + v * m := by nlinarith
        rw [lengthCost_cons]
        omega
      · exact Multiset.forall_mem_cons.mpr ⟨hm, fun p hp => (hmax p hp).trans hm⟩

theorem half_pow_mul_two_pow (n : ℕ) : (1 / 2 : ℝ) ^ n * 2 ^ n = 1 := by
  rw [← mul_pow]
  norm_num

/-- A Kraft sum of lengths up to `m` is a number of the words of length `m`. -/
theorem exists_kraftSum_mul_two_pow_eq {m : ℕ} {l : Multiset ℕ} (hl : ∀ i ∈ l, i ≤ m) :
    ∃ N : ℕ, kraftSum l * 2 ^ m = N := by
  induction l using Multiset.induction_on with
  | empty => exact ⟨0, by simp⟩
  | cons i l ih =>
    obtain ⟨hi, hl⟩ := Multiset.forall_mem_cons.mp hl
    obtain ⟨N, hN⟩ := ih hl
    refine ⟨2 ^ (m - i) + N, ?_⟩
    have hpow : (2 : ℝ) ^ m = 2 ^ i * 2 ^ (m - i) := by rw [← pow_add, Nat.add_sub_cancel' hi]
    push_cast
    rw [kraftSum_cons, add_mul, hN, hpow, ← mul_assoc, half_pow_mul_two_pow, one_mul]

/-- Two words, the second of which has the greatest length of the others, leave room for one word a bit shorter in their
place: counted in words of that length, the sum is a whole number. -/
theorem kraftSum_merge {n m : ℕ} {l : Multiset ℕ} (hl : ∀ i ∈ l, i ≤ m) (h : kraftSum (n ::ₘ m ::ₘ l) ≤ 1) :
    ∃ j, m = j + 1 ∧ kraftSum (j ::ₘ l) ≤ 1 := by
  obtain ⟨N, hN⟩ := exists_kraftSum_mul_two_pow_eq hl
  have hpos : (0 : ℝ) < (1 / 2) ^ n := by positivity
  have hone := half_pow_mul_two_pow m
  have hlt : 1 + N < 2 ^ m := by
    have h2 : (0 : ℝ) < 2 ^ m := by positivity
    rw [kraftSum_cons, kraftSum_cons] at h
    have : (1 : ℝ) + N < 2 ^ m := by nlinarith
    exact_mod_cast this
  cases m with
  | zero => simp at hlt
  | succ j =>
    refine ⟨j, rfl, ?_⟩
    have hle : (2 : ℝ) + N ≤ 2 ^ (j + 1) := by exact_mod_cast (by omega : 2 + N ≤ 2 ^ (j + 1))
    have hj : (1 / 2 : ℝ) ^ j * 2 ^ (j + 1) = 2 := by rw [pow_succ (2 : ℝ), ← mul_assoc, half_pow_mul_two_pow, one_mul]
    have h2 : (0 : ℝ) < 2 ^ (j + 1) := by positivity
    rw [kraftSum_cons]
    nlinarith

/-- Lengths for these weights that keep Kraft's inequality cost at least `N`. -/
def CostBound (ws : Multiset ℕ) (N : ℕ) : Prop :=
  ∀ L : Multiset (ℕ × ℕ), L.map Prod.fst = ws → kraftSum (L.map Prod.snd) ≤ 1 → N ≤ lengthCost L

/-- A table that has a weight is an entry with this weight beside the others. -/
theorem exists_eq_cons_of_map_fst {L : Multiset (ℕ × ℕ)} {w : ℕ} {ws : Multiset ℕ} (h : L.map Prod.fst = w ::ₘ ws) :
    ∃ n L', L = (w, n) ::ₘ L' ∧ L'.map Prod.fst = ws := by
  obtain ⟨⟨w', n⟩, hmem, rfl, hrest⟩ := (Multiset.map_eq_cons _ _ _ _).mpr h
  exact ⟨n, _, (Multiset.cons_erase hmem).symm, hrest⟩

/-- The greedy step: the two least weights cost at least their sum more than one weight in their place. -/
theorem CostBound.greedy {x y N : ℕ} {ws : Multiset ℕ} (hxy : x ≤ y) (hy : ∀ w ∈ ws, y ≤ w)
    (h : CostBound ((x + y) ::ₘ ws) N) : CostBound (x ::ₘ y ::ₘ ws) (N + (x + y)) := by
  intro T hT hkraft
  obtain ⟨n, L, rfl, hL⟩ := exists_eq_cons_of_map_fst hT
  have hleast {w : ℕ} {us : Multiset ℕ} {L : Multiset (ℕ × ℕ)} (hL : L.map Prod.fst = us) (hus : ∀ v ∈ us, w ≤ v) :
      ∀ p ∈ L, w ≤ p.1 := fun p hp => hus _ (hL ▸ Multiset.mem_map_of_mem _ hp)
  have hx : ∀ v ∈ y ::ₘ ws, x ≤ v := Multiset.forall_mem_cons.mpr ⟨hxy, fun w hw => hxy.trans (hy w hw)⟩
  obtain ⟨n', K, hK, hsnd, hcost, hmax⟩ := exists_longest_on_least n (hleast hL hx)
  obtain ⟨m, L₁, rfl, hL₁⟩ := exists_eq_cons_of_map_fst (hK.trans hL)
  obtain ⟨m', L₂, hL₂, hsnd₂, hcost₂, hmax₂⟩ := exists_longest_on_least m (hleast hL₁ hy)
  rw [Multiset.map_cons, ← hsnd₂] at hsnd
  have hmn : m' ≤ n' := by
    have hmem : m' ∈ ((y, m) ::ₘ L₁).map Prod.snd := by
      rw [Multiset.map_cons, ← hsnd₂]
      exact Multiset.mem_cons_self _ _
    obtain ⟨p, hp, rfl⟩ := Multiset.mem_map.mp hmem
    exact hmax p hp
  have hlens : ∀ i ∈ L₂.map Prod.snd, i ≤ m' := Multiset.forall_mem_map_iff.mpr hmax₂
  rw [Multiset.map_cons, ← hsnd] at hkraft
  obtain ⟨j, rfl, hj⟩ := kraftSum_merge hlens hkraft
  have hN := h ((x + y, j) ::ₘ L₂) (by rw [Multiset.map_cons, hL₂, hL₁]) (by rwa [Multiset.map_cons])
  simp only [lengthCost_cons] at hcost hcost₂ hN ⊢
  have hxn : x * (j + 1) ≤ x * n' := Nat.mul_le_mul_left x hmn
  calc N + (x + y) ≤ (x + y) * j + lengthCost L₂ + (x + y) := by omega
    _ = x * (j + 1) + (y * (j + 1) + lengthCost L₂) := by ring
    _ ≤ x * n + lengthCost L := by omega

/-! ## Optimality (rules R138, R155) -/

/-- The weights of the candidates. -/
def Builder.weights (b : Builder) : Multiset ℕ :=
  (b.cands.map fun x => x.weight.toNat : List ℕ)

/-- The merges so far were worth their cost: what bounds the cost of the candidates' weights, together with the cost of
the traced paths, bounds the cost of the keys' weights. -/
def Builder.Thrifty (f : Cells 8 Count) (b : Builder) (t : Trace) : Prop :=
  ∀ N, CostBound b.weights N → CostBound (initialBuilder f).weights (N + cost f fun k => (t k).2)

theorem initialBuilder_thrifty (f : Cells 8 Count) : (initialBuilder f).Thrifty f initialTrace := by
  have hcost : cost f (fun k => (initialTrace k).2) = 0 := by
    refine List.sum_eq_zero fun n hn => ?_
    obtain ⟨k, -, rfl⟩ := List.mem_map.mp hn
    rfl
  intro N hN
  rwa [hcost]

/-- An order that refines "smaller weight first" keeps to the weights. -/
theorem RefinesWeight.respects {before : Cand → Cand → Bool} (h : RefinesWeight before) :
    Respects before fun x y => x.weight.toNat ≤ y.weight.toNat where
  trans := le_trans
  yes {x y} hyes := by
    by_contra hlt
    rw [(h y x (Nat.lt_of_not_le hlt)).2] at hyes
    cases hyes
  no {x y} hno := by
    by_contra hlt
    rw [(h x y (Nat.lt_of_not_le hlt)).1] at hno
    cases hno

/-- A merge of the two least weights is worth its cost. -/
theorem Builder.Thrifty.mergeNode {before : Cand → Cand → Bool} (hbefore : RefinesWeight before) {f : Cells 8 Count}
    (hf : totalWeight f < 2 ^ 32) {b : Builder} {x y : Cand} {rest : List Cand} {t : Trace} (hb : b.Sound f)
    (ht : b.Traced f t) (hopt : b.Thrifty f t) (htwo : takeTwo before b.cands = some (x, y, rest)) :
    (mergeNode b x y rest).Thrifty f (t.merge x.handle y.handle (mergeHandle b.merges)) := by
  have hperm := takeTwo_perm htwo
  obtain ⟨hxy, hrest⟩ := hbefore.respects.takeTwo htwo
  obtain ⟨hx, hy, -⟩ := taken_mem hperm
  intro N hN
  have hold : b.weights = x.weight.toNat ::ₘ y.weight.toNat ::ₘ (rest.map fun z => z.weight.toNat : List ℕ) :=
    Multiset.coe_eq_coe.mpr (hperm.map _)
  have hnew : (Machine.mergeNode b x y rest).weights =
      (x.weight.toNat + y.weight.toNat) ::ₘ (rest.map fun z => z.weight.toNat : List ℕ) := by
    rw [← hb.weight_add hperm hf]
    simp [Builder.weights, ← Multiset.coe_add, add_comm]
  have hgreedy := (hnew ▸ hN).greedy hxy (by simpa using hrest)
  rw [Trace.cost_merge (hb.handles_ne hperm).1, ← ht.weights x hx, ← ht.weights y hy, add_comm (cost f _), ← add_assoc]
  exact hopt _ (hold ▸ hgreedy)

theorem finalBuilder_thrifty {before : Cand → Cand → Bool} (hbefore : RefinesWeight before) {f : Cells 8 Count}
    (hf : totalWeight f < 2 ^ 32) : ∃ t, (finalBuilder before f).Traced f t ∧ (finalBuilder before f).Thrifty f t := by
  refine (mergeLoop_keeps_taken (P := fun b => b.Sound f ∧ ∃ t, b.Traced f t ∧ b.Thrifty f t) ?_ _
    ⟨initialBuilder_sound f, _, initialBuilder_traced f, initialBuilder_thrifty f⟩).2
  rintro b x y rest ⟨hb, t, ht, hopt⟩ htwo
  have hperm := takeTwo_perm htwo
  exact ⟨hb.mergeNode hf hperm, _, ht.mergeNode hb hf hperm, hopt.mergeNode hbefore hf hb ht htwo⟩

/-- Only the present keys' lengths count. -/
theorem cost_eq_presentKeys (f : Cells 8 Count) (code : Byte → Bits) :
    cost f code = ((presentKeys f).map fun k => (readFreq f k).toNat * (code k).length).sum := by
  rw [cost, sum_allSyms, ← List.sum_toFinset _ (presentKeys_nodup f)]
  refine (Finset.sum_subset (fun k _ => List.mem_toFinset.mpr (mem_allSyms k)) fun k _ hk => ?_).symm
  have hzero : readFreq f k = 0 := by simpa [mem_presentKeys] using hk
  rw [hzero]
  exact Nat.zero_mul _

theorem cost_congr {f : Cells 8 Count} {code code' : Byte → Bits}
    (h : ∀ k, readFreq f k ≠ 0 → (code k).length = (code' k).length) : cost f code = cost f code' := by
  rw [cost_eq_presentKeys, cost_eq_presentKeys]
  congr 1
  refine List.map_congr_left fun k hk => ?_
  rw [h k (mem_presentKeys.mp hk)]

/-- What bounds the cost of the keys' weights bounds the cost of every code in which no word begins another one. -/
theorem CostBound.le_cost {f : Cells 8 Count} {N : ℕ} (h : CostBound (initialBuilder f).weights N)
    (hkeys : 2 ≤ keyCount f) {code : Byte → Bits} (hfree : PrefixFreeOnKeys f code) : N ≤ cost f code := by
  have hbound := h ((presentKeys f).map fun k => ((readFreq f k).toNat, (code k).length) : List (ℕ × ℕ)) ?_ ?_
  · rw [cost_eq_presentKeys]
    simpa [lengthCost, Function.comp_def] using hbound
  · simp [Builder.weights, initialBuilder, leafCands, Function.comp_def]
  · simpa [Function.comp_def] using hfree.kraftSum_le_one hkeys

/-- Settles O31: every merge takes the two least weights, so no lengths within Kraft's inequality cost less than the
traced paths, whose lengths are those of the codes. -/
theorem everyTieBreakIsOptimal : Obligations.EveryTieBreakIsOptimal := by
  intro before label f hbefore hsum hkeys
  obtain ⟨t, ht, hopt⟩ := finalBuilder_thrifty hbefore hsum
  obtain ⟨c, hc, -, hcode⟩ := finalBuilder_codes label hsum hkeys ht
  refine ⟨c, hc, fun code hfree => ?_⟩
  have hlengths : cost f (readCode c) = cost f fun k => (t k).2 := cost_congr fun k hk => by
    rw [((hcode k).2 hk).1, labelled, List.length_map]
  have hbound := hopt 0 fun _ _ _ => Nat.zero_le _
  rw [zero_add, ← hlengths] at hbound
  exact hbound.le_cost hkeys hfree

end Sys2Proof.Machine

/-! Proofs of the family 43_code_generator.md: `ASSIGN` (O26 to O29) and the code table commands `CLEN`, `CBIT`,
`CBEGIN`, `CPUSH`, `CEND` (O32 to O36). -/

namespace Sys2Proof.Machine

/-! ## `ASSIGN` in one step (rules R150 to R152) -/

/-- The state after an `ASSIGN` that completes with the code table `c`. -/
def State.assigned (s : State) (c : Cells 8 Bits) : State :=
  State.afterOk { s with code := c, nsym := BitVec.ofNat 9 (presentCount c) } (BitVec.ofNat 32 (presentCount c))

theorem State.runOpen_eq_true (s : State) : s.runOpen = true ↔ s.pact = true ∨ s.dact = true :=
  Bool.or_eq_true_iff

theorem State.runOpen_of_idle {s : State} (hpact : s.pact = false) (hdact : s.dact = false) : s.runOpen = false :=
  Bool.or_eq_false_iff.mpr ⟨hpact, hdact⟩

theorem exec_assign_refused {s : State} (hclear : s.fault = false) (hopen : s.runOpen = true) :
    exec .assign s = .next (s.afterFault 0x3000 .seq s.status) :=
  (unlessFaulted_clear s _ hclear).trans (if_pos hopen)

theorem exec_assign_idle {s : State} {c : Cells 8 Bits} (hclear : s.fault = false) (hidle : s.runOpen = false)
    (hc : codesOfTree Config.leftLabel s.node s.root = some c) : exec .assign s = .next (s.assigned c) := by
  refine (unlessFaulted_clear s _ hclear).trans ?_
  rw [State.assignRefused, hidle, hc]
  rfl

/-- An `ASSIGN` that completes without a fault found codes in the tree. -/
theorem assigned_of_no_fault {s t : State} (hclear : s.fault = false) (htree : TreeInv s.node s.root s.nnode)
    (hexec : exec .assign s = .next t) (ht : t.fault = false) :
    ∃ c, codesOfTree Config.leftLabel s.node s.root = some c ∧ t = s.assigned c := by
  cases hopen : s.runOpen with
  | true =>
    rw [exec_assign_refused hclear hopen] at hexec
    cases hexec
    cases ht
  | false =>
    obtain ⟨c, hc⟩ := htree.codesOfTree_some Config.leftLabel
    rw [exec_assign_idle hclear hopen hc] at hexec
    cases hexec
    exact ⟨c, hc, rfl⟩

theorem codesOfTree_none (label : Bool) (a : Cells 9 Node) : codesOfTree label a Config.none = some [] :=
  if_pos rfl

/-- The code table of a tree that is a single leaf (rule R152). -/
theorem codesOfTree_leaf (label : Bool) (a : Cells 9 Node) (b : Byte) :
    codesOfTree label a (leafHandle b) = some (writeCode [] b [false]) := by
  have hleaf : isLeafHandle (leafHandle b) = true := (isLeafHandle_iff _).mpr (leafHandle_lt b)
  rw [codesOfTree, if_neg (leafHandle_ne_none b), if_pos hleaf, handleSym_leafHandle]

/-- A handle of the leaf range is a symbol's. -/
theorem exists_leafHandle {h : Handle} (hlt : h.toNat < 256) : ∃ b, h = leafHandle b :=
  ⟨handleSym h, (leafHandle_handleSym hlt).symm⟩

/-! ## The paths of a tree of rule R26 (rule R151) -/

/-- The child that an edge leads to: the left one under the label 0, the right one under 1. -/
def childAt (l r : Handle) (x : Bool) : Handle :=
  if x then r else l

theorem isChild_childAt {a : Cells 9 Node} {h l r : Handle} {w : Count} (hn : readNode a h = .internal w l r)
    (x : Bool) : IsChild a h (childAt l r x) := by
  cases x with
  | false => exact ⟨w, l, r, hn, .inl rfl⟩
  | true => exact ⟨w, l, r, hn, .inr rfl⟩

theorem childAt_injective {l r : Handle} (hlr : l ≠ r) : Function.Injective (childAt l r) :=
  Bool.injective_iff.mpr hlr

/-- A path with an edge leads from an internal node to the edge's child and on. -/
theorem leadsTo_cons_iff {a : Cells 9 Node} {h : Handle} {x : Bool} {p : Bits} {b : Byte} :
    LeadsTo a h (x :: p) b ↔ ∃ w l r, readNode a h = .internal w l r ∧ LeadsTo a (childAt l r x) p b := by
  constructor
  · intro hp
    cases hp with
    | left hn hp => exact ⟨_, _, _, hn, hp⟩
    | right hn hp => exact ⟨_, _, _, hn, hp⟩
  · rintro ⟨w, l, r, hn, hp⟩
    cases x with
    | false => exact .left hn hp
    | true => exact .right hn hp

/-- A path from a child is continued upwards by its parent. -/
theorem IsChild.leadsTo {a : Cells 9 Node} {g h : Handle} {p : Bits} {b : Byte} (hg : IsChild a g h)
    (hp : LeadsTo a h p b) : ∃ q, LeadsTo a g q b := by
  obtain ⟨w, l, r, hn, rfl | rfl⟩ := hg
  · exact ⟨_, .left hn hp⟩
  · exact ⟨_, .right hn hp⟩

section Tree
variable {a : Cells 9 Node} {root : Handle} {nnode : BitVec 9} {n : Nat} (ht : FullTree a root nnode n)
include ht

theorem FullTree.internal_range {h l r : Handle} {w : Count} (hn : readNode a h = .internal w l r) :
    256 ≤ h.toNat ∧ h.toNat < 256 + (n - 1) := by
  have h256 : 256 ≤ h.toNat := by
    by_contra hlt
    obtain ⟨b, rfl⟩ := exists_leafHandle (Nat.lt_of_not_le hlt)
    exact ht.leavesEndPaths b w l r hn
  exact ⟨h256, (ht.internal_iff h256).1.mp ⟨w, l, r, hn⟩⟩

/-- A child stands below its parent. -/
theorem FullTree.isChild_lt {g h : Handle} (hg : IsChild a g h) : h.toNat < g.toNat := by
  obtain ⟨w, l, r, hn, hlr⟩ := hg
  obtain ⟨-, -, -, hl, hr, -⟩ := ht.children g w l r hn
  obtain ⟨h256, -⟩ := ht.internal_range hn
  by_cases hh : h.toNat < 256
  · exact hh.trans_le h256
  · obtain rfl | rfl := hlr
    · exact hl (Nat.le_of_not_lt hh)
    · exact hr (Nat.le_of_not_lt hh)

/-- The root is no child: as an internal node it is the last one, and a single leaf has no internal node beside it. -/
theorem FullTree.not_isChild_root (g : Handle) : ¬ IsChild a g root := by
  intro hg
  have hlt := ht.isChild_lt hg
  obtain ⟨w, l, r, hn, -⟩ := hg
  have hrange := ht.internal_range hn
  have hroot := ht.root_eq
  split at hroot <;> omega

theorem FullTree.parent_unique {g g' h : Handle} (hg : IsChild a g h) (hg' : IsChild a g' h) : g = g' := by
  have hne : h ≠ root := fun e => ht.not_isChild_root g (e ▸ hg)
  have hvalid : readNode a h ≠ .invalid := by
    obtain ⟨w, l, r, hn, hlr⟩ := hg
    obtain ⟨-, hl, hr, -⟩ := ht.children g w l r hn
    obtain rfl | rfl := hlr
    · exact hl
    · exact hr
  obtain ⟨p, -, hp⟩ := ht.parents h hvalid hne
  exact (hp g hg).trans (hp g' hg').symm

/-- Going up from a leaf there is one way only, so paths of one length that end in the same leaf are the same. -/
theorem FullTree.leadsTo_unique_of_length {h h' : Handle} {p q : Bits} {b : Byte} (hp : LeadsTo a h p b)
    (hq : LeadsTo a h' q b) (hlen : p.length = q.length) : h = h' ∧ p = q := by
  induction p generalizing h h' q with
  | nil =>
    obtain rfl := List.length_eq_zero_iff.mp hlen.symm
    cases hp
    cases hq
    exact ⟨rfl, rfl⟩
  | cons x p ih =>
    cases q with
    | nil => cases hlen
    | cons y q =>
      obtain ⟨w, l, r, hn, hp⟩ := leadsTo_cons_iff.mp hp
      obtain ⟨w', l', r', hn', hq⟩ := leadsTo_cons_iff.mp hq
      obtain ⟨hchild, rfl⟩ := ih hp hq (Nat.succ.inj hlen)
      obtain rfl : h = h' := ht.parent_unique (isChild_childAt hn x) (hchild ▸ isChild_childAt hn' y)
      cases hn.symm.trans hn'
      obtain ⟨hlr, -⟩ := ht.children h w l r hn
      exact ⟨rfl, congrArg (· :: p) (childAt_injective hlr hchild)⟩

/-- No path to a leaf is longer than one from the root, above which there is nothing. -/
theorem FullTree.length_le_of_leadsTo_root {h : Handle} {p q : Bits} {b : Byte} (hq : LeadsTo a root q b)
    (hp : LeadsTo a h p b) : p.length ≤ q.length := by
  induction p generalizing h with
  | nil => exact Nat.zero_le _
  | cons x p ih =>
    obtain ⟨w, l, r, hn, hp⟩ := leadsTo_cons_iff.mp hp
    refine Nat.lt_of_le_of_ne (ih hp) fun hlen => ?_
    obtain ⟨hroot, -⟩ := ht.leadsTo_unique_of_length hp hq hlen
    exact ht.not_isChild_root h (hroot ▸ isChild_childAt hn x)

/-- The path from the root to a leaf is unique (rule R151). -/
theorem FullTree.leadsTo_root_unique {p q : Bits} {b : Byte} (hp : LeadsTo a root p b) (hq : LeadsTo a root q b) :
    p = q :=
  (ht.leadsTo_unique_of_length hp hq
    (Nat.le_antisymm (ht.length_le_of_leadsTo_root hq hp) (ht.length_le_of_leadsTo_root hp hq))).2

/-- What can be reached from a node of the tree can be reached from the root: parents stand above their children, so
going up ends, and it ends at the root. -/
theorem FullTree.leadsTo_root_of_leadsTo {h : Handle} {p : Bits} {b : Byte} (hv : readNode a h ≠ .invalid)
    (hp : LeadsTo a h p b) : ∃ q, LeadsTo a root q b := by
  by_cases hroot : h = root
  · exact ⟨p, hroot ▸ hp⟩
  · obtain ⟨g, hg, -⟩ := ht.parents h hv hroot
    obtain ⟨q, hq⟩ := hg.leadsTo hp
    have hlt := ht.isChild_lt hg
    have hgv : readNode a g ≠ .invalid := by
      obtain ⟨w, l, r, hn, -⟩ := hg
      simp [hn]
    exact leadsTo_root_of_leadsTo hgv hq
termination_by 512 - h.toNat
decreasing_by omega

/-- The internal nodes on a path have falling handles from 256 on, so there are no more than that (rule R157). -/
theorem FullTree.length_le_of_leadsTo {h : Handle} {p : Bits} {b : Byte} (hp : LeadsTo a h p b) :
    p.length ≤ h.toNat - 255 := by
  induction p generalizing h with
  | nil => exact Nat.zero_le _
  | cons x p ih =>
    obtain ⟨w, l, r, hn, hp⟩ := leadsTo_cons_iff.mp hp
    have hlen := ih hp
    have hlt := ht.isChild_lt (isChild_childAt hn x)
    obtain ⟨h256, -⟩ := ht.internal_range hn
    rw [List.length_cons]
    omega

end Tree

/-! ## The codes that `ASSIGN` gives (rules R150 to R153, R157) -/

theorem labelled_leftLabel (q : Bits) : labelled Config.leftLabel q = q := by
  simp [labelled]

/-- Under an internal root each leaf's code is the path to it, and nothing else has a code (rule R151). -/
theorem FullTree.readCode_iff {a : Cells 9 Node} {root : Handle} {nnode : BitVec 9} {n : Nat} {c : Cells 8 Bits}
    (ht : FullTree a root nnode n) (hn : 2 ≤ n) (hc : codesOfTree Config.leftLabel a root = some c) (b : Byte)
    (p : Bits) : p ≠ [] ∧ readCode c b = p ↔ LeadsTo a root p b := by
  obtain ⟨h256, hwalk⟩ := codesOfTree_of_internal_root (label := Config.leftLabel) ht hn
  obtain ⟨q, hcode, hq⟩ | ⟨hnone, hno⟩ := walk_root_reads ht.leavesEndPaths (hwalk ▸ hc) b
  · rw [hcode, labelled_leftLabel]
    constructor
    · rintro ⟨-, rfl⟩
      exact hq
    · intro hp
      exact ⟨hp.ne_nil h256, ht.leadsTo_root_unique hq hp⟩
  · rw [hnone]
    constructor
    · rintro ⟨hne, rfl⟩
      exact absurd rfl hne
    · exact fun hp => absurd hp (hno p)

/-- Every leaf of the tree has a code. -/
theorem FullTree.le_presentCount {a : Cells 9 Node} {root : Handle} {nnode : BitVec 9} {n : Nat} {c : Cells 8 Bits}
    (ht : FullTree a root nnode n) (hn : 2 ≤ n) (hc : codesOfTree Config.leftLabel a root = some c) :
    n ≤ presentCount c := by
  rw [← ht.count]
  refine List.countP_mono_left fun b _ hb => ?_
  obtain ⟨q, hq⟩ := ht.leadsTo_root_of_leadsTo (bne_iff_ne.mp hb) (.here b)
  obtain ⟨hne, hcode⟩ := (ht.readCode_iff hn hc b q).mpr hq
  simpa [hcode] using hne

/-- A tree of rule R26 with an internal root has two leaves or more. -/
theorem TreeInv.fullTree_of_internal_root {a : Cells 9 Node} {root : Handle} {nnode : BitVec 9}
    (h : TreeInv a root nnode) (h256 : 256 ≤ root.toNat) (hnone : root ≠ Config.none) :
    ∃ n, 2 ≤ n ∧ FullTree a root nnode n := by
  obtain hempty | ⟨n, ht⟩ := h
  · exact absurd hempty.root_none hnone
  · have hpos := ht.pos
    have hroot := ht.root_eq
    refine ⟨n, ?_, ht⟩
    split at hroot <;> omega

/-- Settles O26: the empty tree and the lone symbol by the rule's own cases; under an internal root the walk gives each
leaf a path that leads to it, and there is only one, because a node has one parent and the root none. -/
theorem assignRule : Obligations.AssignRule := by
  refine ⟨rfl, fun s hclear => ⟨fun hopen => ?_, fun hpact hdact htree => ?_⟩⟩
  · exact exec_assign_refused hclear (s.runOpen_eq_true.mpr hopen)
  · obtain ⟨c, hc⟩ := htree.codesOfTree_some Config.leftLabel
    refine ⟨c, exec_assign_idle hclear (State.runOpen_of_idle hpact hdact) hc, fun hroot b => ?_, fun hlt b => ?_,
      fun h256 hnone b p => ?_⟩
    · cases (hroot ▸ hc).symm.trans (codesOfTree_none _ s.node)
      exact readCode_nil b
    · obtain ⟨k, hk⟩ := exists_leafHandle hlt
      cases (hk ▸ hc).symm.trans (codesOfTree_leaf _ s.node k)
      rw [readCode_writeCode, hk, readCode_nil]
      simp only [leafHandle_injective.eq_iff]
    · obtain ⟨n, hn, hfull⟩ := htree.fullTree_of_internal_root h256 hnone
      exact hfull.readCode_iff hn hc b p

/-- A code of a table with two entries or more has fewer bits than the table has entries (rule R157). -/
theorem TreeInv.length_lt_presentCount {a : Cells 9 Node} {root : Handle} {nnode : BitVec 9} {c : Cells 8 Bits}
    (h : TreeInv a root nnode) (hc : codesOfTree Config.leftLabel a root = some c) (hcount : 2 ≤ presentCount c)
    (b : Byte) : (readCode c b).length < presentCount c := by
  by_cases hnone : root = Config.none
  · cases (hnone ▸ hc).symm.trans (codesOfTree_none _ a)
    rw [presentCount_nil] at hcount
    omega
  by_cases hlt : root.toNat < 256
  · obtain ⟨k, rfl⟩ := exists_leafHandle hlt
    cases hc.symm.trans (codesOfTree_leaf _ a k)
    rw [presentCount_writeCode (readCode_nil k) (List.cons_ne_nil _ _), presentCount_nil] at hcount
    omega
  · obtain ⟨n, hn, ht⟩ := h.fullTree_of_internal_root (Nat.le_of_not_lt hlt) hnone
    refine Nat.lt_of_lt_of_le ?_ (ht.le_presentCount hn hc)
    by_cases hb : readCode c b = []
    · rw [hb, List.length_nil]
      omega
    · have hlen := ht.length_le_of_leadsTo ((ht.readCode_iff hn hc b _).mp ⟨hb, rfl⟩)
      have hroot := ht.root_eq
      rw [if_neg (by omega)] at hroot
      omega

/-- `NSYM` holds every number of entries. -/
theorem toNat_ofNat_presentCount (c : Cells 8 Bits) : (BitVec.ofNat 9 (presentCount c)).toNat = presentCount c := by
  have hle := presentCount_le c
  rw [BitVec.toNat_ofNat]
  omega

/-- Settles O28: a code is a path, on which the internal nodes have falling handles, of which there is one fewer than
leaves; the bound 255 is the code file's. -/
theorem codeLengthBound : Obligations.CodeLengthBound := by
  intro s t hclear htree hexec ht b hb
  obtain ⟨c, hc, rfl⟩ := assigned_of_no_fault hclear htree hexec ht
  refine ⟨List.length_pos_iff.mpr hb, fun hcount => ?_, (htree.codeFile hc).short b⟩
  have hnsym : (s.assigned c).nsym.toNat = presentCount c := toNat_ofNat_presentCount c
  rw [hnsym] at hcount ⊢
  exact Nat.le_sub_one_of_lt (htree.length_lt_presentCount hc hcount b)

/-! ## `BUILD` then `ASSIGN` (rules R154, R155) -/

/-- The two commands put the codes of the built tree in the table. -/
theorem execAll_build_assign {s : State} {c : Cells 8 Bits} (hclear : s.fault = false) (hpact : s.pact = false)
    (hdact : s.dact = false) (hsum : freqSum s.freq < 2 ^ 32)
    (hc : codesOfTree Config.leftLabel (finalBuilder candBefore s.freq).arena (finalBuilder candBefore s.freq).root =
      some c) : execAll [.build, .assign] s = .next (s.built.assigned c) := by
  have hassign : exec .assign s.built = .next (s.built.assigned c) :=
    exec_assign_idle hclear (State.runOpen_of_idle hpact hdact) hc
  simp only [execAll, exec_build_fits hclear hsum, hassign]

/-- Without a key the tree is empty and so is the table (rules R135, R153). -/
theorem codesOfTree_no_keys {before : Cand → Cand → Bool} {f : Cells 8 Count} (label : Bool)
    (hkeys : presentKeys f = []) :
    codesOfTree label (finalBuilder before f).arena (finalBuilder before f).root = some [] := by
  rw [finalBuilder_empty hkeys]
  exact codesOfTree_none label _

/-- The codes of every frequency file whose sum fits, the empty one included. -/
theorem exists_codes (f : Cells 8 Count) (hsum : freqSum f < 2 ^ 32) :
    ∃ c, codesOfTree Config.leftLabel (finalBuilder candBefore f).arena (finalBuilder candBefore f).root = some c ∧
      PrefixFree c ∧ ∀ b, readCode c b ≠ [] ↔ readFreq f b ≠ 0 := by
  obtain hzero | hpos := (keyCount f).eq_zero_or_pos
  · have hkeys : presentKeys f = [] := List.length_eq_zero_iff.mp (keyCount_eq_length f ▸ hzero)
    refine ⟨[], codesOfTree_no_keys _ hkeys, codeFile_nil.free, fun b => ?_⟩
    rw [← mem_presentKeys, hkeys]
    simp
  · exact everyTieBreakIsPrefixFree candBefore Config.leftLabel f hsum hpos

/-- Settles O27: the codes of the tree that `BUILD` leaves are those of O30, under this hardware's order and label. -/
theorem codesArePrefixFree : Obligations.CodesArePrefixFree := by
  intro s hclear hpact hdact hsum
  obtain ⟨c, hc, hfree, hkeys⟩ := exists_codes s.freq hsum
  exact ⟨_, execAll_build_assign hclear hpact hdact hsum hc, hclear, hfree, hkeys⟩

/-- This hardware's order takes smaller weights first (rule R131). -/
theorem candBefore_refinesWeight : RefinesWeight candBefore := by
  intro x y hw
  rw [← Bool.not_eq_true, candBefore_iff, candBefore_iff]
  bv_omega

/-- Two symbols' part of the cost, the codes of the others being fixed. -/
theorem exists_cost_rest (f : Cells 8 Count) (code : Byte → Bits) {a b : Byte} (hab : a ≠ b) :
    ∃ N, ∀ code' : Byte → Bits, (∀ k, k ≠ a → k ≠ b → code' k = code k) →
      cost f code' = (readFreq f a).toNat * (code' a).length + (readFreq f b).toNat * (code' b).length + N := by
  have ha : a ∈ allSyms.toFinset := List.mem_toFinset.mpr (mem_allSyms a)
  have hb : b ∈ allSyms.toFinset.erase a := Finset.mem_erase.mpr ⟨hab.symm, List.mem_toFinset.mpr (mem_allSyms b)⟩
  refine ⟨∑ k ∈ (allSyms.toFinset.erase a).erase b, (readFreq f k).toNat * (code k).length, fun code' hcode' => ?_⟩
  have hrest : ∑ k ∈ (allSyms.toFinset.erase a).erase b, (readFreq f k).toNat * (code' k).length =
      ∑ k ∈ (allSyms.toFinset.erase a).erase b, (readFreq f k).toNat * (code k).length := by
    refine Finset.sum_congr rfl fun k hk => ?_
    rw [Finset.mem_erase, Finset.mem_erase] at hk
    obtain ⟨hkb, hka, -⟩ := hk
    rw [hcode' k hka hkb]
  rw [cost, sum_allSyms, ← Finset.add_sum_erase _ _ ha, ← Finset.add_sum_erase _ _ hb, hrest, add_assoc]

/-- The keys' codes may be exchanged between two keys. -/
theorem PrefixFreeOnKeys.comp_swap {f : Cells 8 Count} {code : Byte → Bits} (hfree : PrefixFreeOnKeys f code)
    {a b : Byte} (ha : readFreq f a ≠ 0) (hb : readFreq f b ≠ 0) : PrefixFreeOnKeys f (code ∘ Equiv.swap a b) := by
  have hkey {k : Byte} (hk : readFreq f k ≠ 0) : readFreq f (Equiv.swap a b k) ≠ 0 := by
    rw [Equiv.swap_apply_def]
    split
    · exact hb
    · split
      · exact ha
      · exact hk
  exact fun x y hxy hx hy => hfree _ _ ((Equiv.swap a b).injective.ne hxy) (hkey hx) (hkey hy)

/-- In a code of least cost a more frequent key has no longer word than another one: else the two would better exchange
theirs. -/
theorem length_le_of_least_cost {f : Cells 8 Count} {code : Byte → Bits} (hfree : PrefixFreeOnKeys f code)
    (hleast : ∀ code', PrefixFreeOnKeys f code' → cost f code ≤ cost f code') {a b : Byte}
    (hlt : (readFreq f b).toNat < (readFreq f a).toNat) (hb : readFreq f b ≠ 0) :
    (code a).length ≤ (code b).length := by
  have ha : readFreq f a ≠ 0 := by
    intro h0
    rw [h0] at hlt
    exact Nat.not_lt_zero _ hlt
  have hab : a ≠ b := by
    rintro rfl
    exact Nat.lt_irrefl _ hlt
  obtain ⟨N, hN⟩ := exists_cost_rest f code hab
  have hswap := hleast _ (hfree.comp_swap ha hb)
  rw [hN code fun _ _ _ => rfl,
    hN (code ∘ Equiv.swap a b) fun k hka hkb => congrArg code (Equiv.swap_apply_of_ne_of_ne hka hkb)] at hswap
  simp only [Function.comp_apply, Equiv.swap_apply_left, Equiv.swap_apply_right] at hswap
  by_contra hlong
  have := mul_add_mul_lt_mul_add_mul hlt (Nat.lt_of_not_le hlong)
  omega

/-- Settles O29: the least cost is that of O31 under this hardware's order, and a more frequent key has no longer code,
because exchanging two codes leaves no word beginning another one. -/
theorem codesAreOptimal : Obligations.CodesAreOptimal := by
  intro s hclear hpact hdact hsum hkeys
  obtain ⟨c, hc, hfree, hpresent⟩ := exists_codes s.freq hsum
  obtain ⟨c', hc', hleast⟩ :=
    everyTieBreakIsOptimal candBefore Config.leftLabel s.freq candBefore_refinesWeight hsum hkeys
  cases hc.symm.trans hc'
  have hfreeOn : PrefixFreeOnKeys s.freq (readCode c) := fun a b hab ha hb =>
    hfree a b hab ((hpresent a).mpr ha) ((hpresent b).mpr hb)
  exact ⟨_, execAll_build_assign hclear hpact hdact hsum hc, hclear, hleast,
    fun a b => length_le_of_least_cost hfreeOn hleast⟩

/-! ## `CLEN` and `CBIT` (rules R158, R159) -/

/-- Settles O32: without a fault `CLEN` answers from the state as it is. -/
theorem clenRule : Obligations.ClenRule :=
  fun _ => ⟨rfl, fun s hclear => (unlessFaulted_clear s _ hclear).trans (respond_eq s _)⟩

theorem encode_cbit (sym pos : Byte) : encode (.cbit sym pos) = 0x32#8 ++ sym ++ 0x000000#24 ++ pos := by
  have hdata : pos.setWidth 32 = 0x000000#24 ++ pos := BitVec.setWidth_eq_append (by decide)
  change 0x32#8 ++ sym ++ pos.setWidth 32 = _
  rw [hdata, BitVec.append_assoc (x₁ := 0x32#8 ++ sym), BitVec.cast_eq]

theorem zext32_ofBool (b : Bool) : zext32 (BitVec.ofBool b) = if b then 1 else 0 := by
  cases b <;> rfl

/-- Settles O33: the position is at or beyond the code's length, or within it. -/
theorem cbitRule : Obligations.CbitRule := by
  refine fun sym pos => ⟨encode_cbit sym pos, fun s hclear => ⟨fun hlen => ?_, fun hlt => ?_⟩⟩
  all_goals refine (unlessFaulted_clear s _ hclear).trans ?_
  · rw [List.getElem?_eq_none hlen]
    rfl
  · rw [List.getElem?_eq_getElem hlt, ← zext32_ofBool]
    rfl

/-! ## Loading an entry: `CBEGIN`, `CPUSH`, `CEND` (rules R160 to R162) -/

/-- Settles O34: the two checks in their order, and the effect. -/
theorem cbeginRule : Obligations.CbeginRule := by
  refine fun sym => ⟨rfl, fun s hclear => ⟨fun hopen => ?_, fun hlact hcode => ?_, fun hlact hcode => ?_⟩⟩
  all_goals refine (unlessFaulted_clear s _ hclear).trans ?_
  · exact if_pos hopen
  · rw [State.cbeginRefused, hlact, if_neg nofun, if_pos hcode]
    rfl
  · rw [State.cbeginRefused, hlact, if_neg nofun, if_neg (not_not_intro hcode)]
    rfl

/-- The bit of `CPUSH` is no part of what fault entry records. -/
theorem head_cpush (bit : Bool) : (Instr.cpush bit).head = 0x3400 := by
  cases bit <;> rfl

/-- Settles O35: the two checks in their order, and the effect. -/
theorem cpushRule : Obligations.CpushRule := by
  refine ⟨rfl, rfl, fun bit s hclear => ⟨fun hlact => ?_, fun hlact hlen => ?_, fun hlact hlen => ?_⟩⟩
  all_goals
    refine (unlessFaulted_clear s _ hclear).trans ?_
    rw [State.cpushRefused]
  · rw [hlact, if_pos Bool.not_false, raiseSeq_eq, head_cpush]
  · rw [hlact, if_neg nofun, if_pos hlen, raise_eq, head_cpush]
    rfl
  · rw [if_neg (by simp [hlact]), if_neg hlen]
    simp only [List.length_append, List.length_singleton]
    rfl

/-- A symbol's entry is present and conflicts with a loaded code. -/
def ConflictsAt (c : Cells 8 Bits) (buf : Bits) (t : Byte) : Prop :=
  readCode c t ≠ [] ∧ (readCode c t <+: buf ∨ buf <+: readCode c t)

theorem not_conflictsAt_iff (c : Cells 8 Bits) (buf : Bits) (t : Byte) :
    ¬ ConflictsAt c buf t ↔ readCode c t = [] ∨ (¬ readCode c t <+: buf ∧ ¬ buf <+: readCode c t) := by
  rw [ConflictsAt, not_and_or, not_not, not_or]

theorem conflictTest_iff (c : Cells 8 Bits) (buf : Bits) (t : Byte) :
    (!(readCode c t).isEmpty && codesConflict (readCode c t) buf) = true ↔ ConflictsAt c buf t := by
  simp [ConflictsAt, codesConflict_iff]

/-- The symbol that `CEND` names is the least one with a conflict, since the symbols are tried in ascending order. -/
theorem conflicting_eq_some {c : Cells 8 Bits} {buf : Bits} {t : Byte} (ht : ConflictsAt c buf t)
    (hleast : ∀ u : Byte, u < t → ¬ ConflictsAt c buf u) : conflicting c buf = some t := by
  obtain ⟨as, bs, hsplit⟩ := List.append_of_mem (mem_allSyms t)
  have hsorted := hsplit ▸ allSyms_sorted
  refine List.find?_eq_some_iff_append.mpr ⟨(conflictTest_iff ..).mpr ht, as, bs, hsplit, fun u hu => ?_⟩
  have hlt : u < t := (List.pairwise_append.mp hsorted).2.2 u hu t List.mem_cons_self
  rw [Bool.not_eq_true', ← Bool.not_eq_true, conflictTest_iff]
  exact hleast u hlt

theorem conflicting_eq_none {c : Cells 8 Bits} {buf : Bits} (hno : ∀ t, ¬ ConflictsAt c buf t) :
    conflicting c buf = none :=
  List.find?_eq_none.mpr fun t _ => mt (conflictTest_iff c buf t).mp (hno t)

theorem exec_cend_refused {s : State} (hclear : s.fault = false) (hrefused : s.cendRefused = true) :
    exec .cend s = .next (s.afterFault 0x3500 .seq s.status) :=
  (unlessFaulted_clear s _ hclear).trans (if_pos hrefused)

section Cend
variable {s : State} (hclear : s.fault = false) (hready : s.cendRefused = false)
include hclear hready

theorem exec_cend_empty (hbuf : s.ldbuf = []) :
    exec .cend s = .next (s.afterFault 0x3500 .fmtEmpty (s.ldsym.setWidth 32)) := by
  refine (unlessFaulted_clear s _ hclear).trans ?_
  rw [hready, if_neg nofun, if_pos hbuf]
  rfl

variable (hbuf : s.ldbuf ≠ [])
include hbuf

theorem exec_cend_dup (hcode : s.codeAt s.ldsym ≠ []) :
    exec .cend s = .next (s.afterFault 0x3500 .fmtDup (s.ldsym.setWidth 32)) := by
  refine (unlessFaulted_clear s _ hclear).trans ?_
  rw [hready, if_neg nofun, if_neg hbuf, if_pos hcode]
  rfl

variable (hcode : s.codeAt s.ldsym = [])
include hcode

theorem exec_cend_prefix {t : Byte} (ht : conflicting s.code s.ldbuf = some t) :
    exec .cend s = .next (s.afterFault 0x3500 .fmtPrefix (t.setWidth 32)) := by
  refine (unlessFaulted_clear s _ hclear).trans ?_
  rw [hready, if_neg nofun, if_neg hbuf, if_neg (not_not_intro hcode), ht]
  rfl

theorem exec_cend_commit (hnone : conflicting s.code s.ldbuf = none) :
    exec .cend s = .next (State.afterOk
      { s with code := writeCode s.code s.ldsym s.ldbuf, nsym := s.nsym + 1, lact := false }
      ((s.nsym + 1).setWidth 32)) := by
  refine (unlessFaulted_clear s _ hclear).trans ?_
  rw [hready, if_neg nofun, if_neg hbuf, if_neg (not_not_intro hcode), hnone]
  rfl

end Cend

/-- `CEND` is refused without an open load, and while a run is open. -/
theorem State.cendRefused_iff (s : State) : s.cendRefused = true ↔ s.lact = false ∨ s.pact = true ∨ s.dact = true := by
  rw [State.cendRefused, Bool.or_eq_true_iff, Bool.not_eq_true', s.runOpen_eq_true]

/-- Settles O36: the checks in their order; the search for a conflict ends at the least symbol that has one. -/
theorem cendRule : Obligations.CendRule := by
  refine ⟨rfl, fun s hclear => ⟨fun hrefused => ?_, fun hlact hpact hdact => ?_⟩⟩
  · exact exec_cend_refused hclear (s.cendRefused_iff.mpr hrefused)
  · have hready : s.cendRefused = false := by simp [State.cendRefused, State.runOpen, hlact, hpact, hdact]
    refine ⟨exec_cend_empty hclear hready, exec_cend_dup hclear hready, fun hbuf hcode => ⟨fun t ht hconf hleast => ?_,
      fun hno => ?_⟩⟩
    · have hleast (u : Byte) (hu : u < t) : ¬ ConflictsAt s.code s.ldbuf u :=
        (not_conflictsAt_iff ..).mpr (hleast u hu)
      exact exec_cend_prefix hclear hready hbuf hcode (conflicting_eq_some ⟨ht, hconf⟩ hleast)
    · have hnone := conflicting_eq_none fun t => (not_conflictsAt_iff ..).mpr (hno t)
      exact ⟨_, exec_cend_commit hclear hready hbuf hcode hnone, fun b => readCode_writeCode s.code s.ldsym b s.ldbuf⟩

end Sys2Proof.Machine

/-! Proofs of the family 44_bit_packer.md: `PACK` (O37), `PCHR` (O38), `PFLUSH` (O39), and that decoding undoes packing
(O46). -/

namespace Sys2Proof.Machine

/-! ## Accepting bits (rules R180 to R182) -/

/-- The state in which the packer answers after it has appended `bytes` and left `rest` pending. -/
def State.packed (s : State) (bytes : List Byte) (rest : Bits) (active : Bool) : State :=
  (((s.emitOut bytes).setAcc rest).setPact active).afterOk (s.outcnt + BitVec.ofNat 32 bytes.length)

/-- Without a completed byte `OUT` and `OUTCNT` stay as they are. -/
theorem State.packed_nil (s : State) (rest : Bits) (active : Bool) :
    s.packed [] rest active =
      State.afterOk { s with acc := rest, nacc := BitVec.ofNat 3 rest.length, pact := active } s.outcnt := by
  simp [State.packed, State.emitOut, State.setAcc, State.setPact]

theorem emitBytes_room {s : State} (i : Instr) {bytes : List Byte} (rest : Bits) (active : Bool)
    (hroom : s.outcnt.toNat + bytes.length ≤ 2 ^ 32 - 1) :
    emitBytes i bytes rest active s = .next (s.packed bytes rest active) :=
  if_neg (Nat.not_lt.mpr hroom)

theorem acceptBits_overflow {s : State} (i : Instr) {bits : Bits}
    (hfull : 2 ^ 32 - 1 < s.outcnt.toNat + (s.acc ++ bits).length / 8) :
    acceptBits i bits s = .next (s.afterFault i.head .overflow 0x101) :=
  emitBytes_overflow s i _ _ true (by rwa [bytesOf_length])

/-- Where `OUTCNT` has room, the pending and the new bits are cut into bytes and fewer than eight bits. -/
theorem acceptBits_room {s : State} (i : Instr) {bits : Bits}
    (hroom : s.outcnt.toNat + (s.acc ++ bits).length / 8 ≤ 2 ^ 32 - 1) :
    ∃ bytes rest, bitsOfBytes bytes ++ rest = s.acc ++ bits ∧ rest.length < 8 ∧
      acceptBits i bits s = .next (s.packed bytes rest true) := by
  refine ⟨_, _, ?_, ?_, emitBytes_room i _ true (by rwa [bytesOf_length])⟩
  · rw [bitsOfBytes_bytesOf _ _ (Nat.mul_div_le ..)]
    exact List.take_append_drop ..
  · rw [List.length_drop]
    omega

/-! ## `PACK` (rule R181) -/

/-- Settles O37: a symbol without a code, a full counter, and a code that is accepted. -/
theorem packRule : Obligations.PackRule := by
  refine fun sym => ⟨rfl, fun s hclear => ⟨fun hnone => ?_, fun hcode hfull => ?_, fun hcode hroom => ?_⟩⟩
  · exact (unlessFaulted_clear s _ hclear).trans (if_pos hnone)
  all_goals rw [exec_of_bitsAccepted hclear (bitsAccepted_pack.mpr ⟨hcode, rfl⟩)]
  · exact acceptBits_overflow _ hfull
  · exact acceptBits_room _ hroom

/-! ## `PCHR` (rule R182) -/

theorem bitsAccepted_pchr_of_bit (c : Cells 8 Bits) {ch : Byte} (hch : ch = 0x30 ∨ ch = 0x31) :
    bitsAccepted c (.pchr ch) = some [ch == 0x31] := by
  obtain rfl | rfl := hch <;> rfl

theorem charBit_eq_none {ch : Byte} (h0 : ch ≠ 0x30) (h1 : ch ≠ 0x31) : charBit ch = none :=
  (if_neg h0).trans (if_neg h1)

/-- A bit that completes no byte becomes pending, whatever `OUTCNT` is. -/
theorem acceptBits_pending {s : State} (i : Instr) (b : Bool) (hacc : s.acc.length < 7) :
    acceptBits i [b] s = .next (s.packed [] (s.acc ++ [b]) true) := by
  have hlen : (s.acc ++ [b]).length < 8 := by simpa using Nat.succ_lt_succ hacc
  have hroom : s.outcnt.toNat + (s.acc ++ [b]).length / 8 ≤ 2 ^ 32 - 1 := by omega
  obtain ⟨bytes, rest, hbits, -, hnext⟩ := acceptBits_room i hroom
  have hnil : bytes = [] := by
    have := congrArg List.length hbits
    rw [List.length_append, bitsOfBytes_length] at this
    exact List.eq_nil_of_length_eq_zero (by omega)
  subst hnil
  obtain rfl : rest = s.acc ++ [b] := hbits
  exact hnext

/-- A bit after seven pending ones completes a byte. -/
theorem acceptBits_byte {s : State} (i : Instr) (b : Bool) (hacc : s.acc.length = 7)
    (hroom : s.outcnt.toNat < 2 ^ 32 - 1) :
    ∃ byte, bitsOfByte byte = s.acc ++ [b] ∧ acceptBits i [b] s = .next (s.packed [byte] [] true) := by
  have hlen : (s.acc ++ [b]).length = 8 := by simp [hacc]
  obtain ⟨bytes, rest, hbits, hrest, hnext⟩ := acceptBits_room (s := s) (bits := [b]) i (by omega)
  have hcut := congrArg List.length hbits
  rw [List.length_append, bitsOfBytes_length, hlen] at hcut
  obtain ⟨byte, rfl⟩ : ∃ byte, bytes = [byte] := List.length_eq_one_iff.mp (by omega)
  obtain rfl : rest = [] := List.eq_nil_of_length_eq_zero (by omega)
  exact ⟨byte, by simpa [bitsOfBytes] using hbits, hnext⟩

/-- Settles O38: a character that is no bit, and a bit that finds seven pending ones or fewer. -/
theorem pchrRule : Obligations.PchrRule := by
  refine fun ch => ⟨rfl, fun s hclear _ => ⟨fun h0 h1 => ?_, fun hch hacc hfull => ?_, fun hch hacc => ?_,
    fun hch hacc hroom => ?_⟩⟩
  · refine (unlessFaulted_clear s _ hclear).trans ?_
    rw [charBit_eq_none h0 h1]
    rfl
  all_goals rw [exec_of_bitsAccepted hclear (bitsAccepted_pchr_of_bit s.code hch)]
  · exact acceptBits_overflow _ (by simp [hacc, hfull])
  · rw [acceptBits_pending _ _ hacc, State.packed_nil, List.length_append, List.length_singleton]
  · exact acceptBits_byte _ _ hacc hroom

/-! ## `PFLUSH` (rule R183) -/

theorem exec_pflush_room {s : State} (hclear : s.fault = false)
    (hroom : s.outcnt.toNat + (paddedByte s.acc s.nacc).length ≤ 2 ^ 32 - 1) :
    exec .pflush s = .next (s.packed (paddedByte s.acc s.nacc) [] false) :=
  (unlessFaulted_clear s _ hclear).trans (emitBytes_room .pflush [] false hroom)

/-- Pending bits are padded to one byte, of which they are the high bits. -/
theorem paddedByte_of_pending {acc : Bits} {nacc : BitVec 3} (hnacc : nacc.toNat = acc.length) (hacc : acc ≠ []) :
    ∃ byte, paddedByte acc nacc = [byte] ∧ bitsOfByte byte = acc ++ List.replicate (8 - acc.length) false := by
  have hne : nacc ≠ 0 := fun h0 => hacc (List.length_eq_zero_iff.mp (by rw [← hnacc, h0]; rfl))
  have hlen : (acc ++ List.replicate (8 - acc.length) false).length = 8 := by
    rw [List.length_append, List.length_replicate]
    omega
  exact ⟨_, if_neg hne, by rw [hnacc, bitsOfByte_byteOf _ hlen]⟩

/-- Settles O39: nothing is pending, or one padded byte finds `OUTCNT` full or with room. -/
theorem pflushRule : Obligations.PflushRule := by
  refine ⟨rfl, fun s hclear hnacc => ⟨fun hacc => ?_, fun hacc hfull => ?_, fun hacc hroom => ?_⟩⟩
  · have hzero : s.nacc = 0 := BitVec.eq_of_toNat_eq (by simp [hnacc, hacc])
    have hnone : paddedByte s.acc s.nacc = [] := if_pos hzero
    rw [exec_pflush_room hclear (by rw [hnone]; exact Nat.le_sub_one_of_lt s.outcnt.isLt), hnone, State.packed_nil]
    simp [hacc, hzero]
  all_goals obtain ⟨byte, hbyte, hbits⟩ := paddedByte_of_pending hnacc hacc
  · refine (unlessFaulted_clear s _ hclear).trans (emitBytes_overflow s _ _ _ _ ?_)
    simp [hbyte, hfull]
  · refine ⟨byte, hbits, ?_⟩
    rw [exec_pflush_room hclear (by rw [hbyte]; exact hroom), hbyte]
    rfl

/-! ## The payload of a byte sequence (rules R57, R180, R184) -/

theorem execAll_cons {i : Instr} {is : List Instr} {s t : State} (h : exec i s = .next t) :
    execAll (i :: is) s = execAll is t := by
  rw [execAll, h]

theorem execAll_append {is js : List Instr} {s t : State} (h : execAll is s = .next t) :
    execAll (is ++ js) s = execAll js t := by
  induction is generalizing s with
  | nil =>
    cases h
    rfl
  | cons i is ih =>
    rw [execAll] at h
    rw [List.cons_append, execAll]
    split at h
    · exact ih h
    · cases h
    · cases h

/-- The codes of a byte sequence, one after the other. -/
def codeBits (c : Cells 8 Bits) (x : List Byte) : Bits :=
  x.flatMap (readCode c)

/-- The bytes are the packed form of `x`: its codes, and then fewer than eight zeros that complete the last byte. -/
def PayloadOf (c : Cells 8 Bits) (x payload : List Byte) : Prop :=
  ∃ k < 8, bitsOfBytes payload = codeBits c x ++ List.replicate k false

/-- What decoding starts from: the code table, the flag of an open decode, and the symbols emitted so far. -/
structure SameDecoder (s t : State) : Prop where
  code_eq : t.code = s.code
  dact_eq : t.dact = s.dact
  symout_eq : t.symout = s.symout

theorem Completes.sameDecoder {i : Instr} {s u : State} (hi : i.opcode ∈ [Opcode.pack, .pflush])
    (h : Completes s i u) : SameDecoder s u := by
  cases h with
  | accept | pflush => exact ⟨by simp, by simp, by simp⟩
  | read hread => obtain hop | hop := List.mem_pair.mp hi <;> exact absurd hread (by simp [hop])
  | _ => exact absurd hi (by simp [Instr.opcode])

theorem exec_packing_sameDecoder {i : Instr} {s t : State} (hi : i.opcode ∈ [Opcode.pack, .pflush])
    (h : exec i s = .next t) : SameDecoder s t := by
  cases exec_leaves i s t h with
  | aborted | faulted => exact ⟨rfl, rfl, rfl⟩
  | completed hu d =>
    obtain ⟨hcode, hdact, hsym⟩ := hu.sameDecoder hi
    exact ⟨hcode, hdact, hsym⟩

theorem execAll_packing_sameDecoder {run : List Instr} {s t : State}
    (hrun : ∀ i ∈ run, i.opcode ∈ [Opcode.pack, .pflush]) (h : execAll run s = .next t) : SameDecoder s t := by
  induction run generalizing s with
  | nil =>
    cases h
    exact ⟨rfl, rfl, rfl⟩
  | cons i run ih =>
    obtain ⟨hi, hrest⟩ := List.forall_mem_cons.mp hrun
    rw [execAll] at h
    split at h
    next u hu =>
      obtain ⟨hcode, hdact, hsym⟩ := exec_packing_sameDecoder hi hu
      obtain ⟨hcode', hdact', hsym'⟩ := ih hrest h
      exact ⟨hcode'.trans hcode, hdact'.trans hdact, hsym'.trans hsym⟩
    · cases h
    · cases h

/-- From an empty packer, `PACK` for every byte and `PFLUSH` append the payload of a sequence that fits. -/
theorem execAll_pack_pflush {s : State} {x : List Byte} (hclear : s.fault = false) (hacc : s.acc = [])
    (hnacc : s.nacc = 0) (hcodes : ∀ b ∈ x, s.codeAt b ≠ [])
    (hroom : s.outcnt.toNat + ((codeBits s.code x).length + 7) / 8 ≤ 2 ^ 32 - 1) :
    ∃ t payload, execAll (x.map .pack ++ [.pflush]) s = .next t ∧ t.fault = false ∧ SameDecoder s t ∧
      t.out = s.out ++ payload ∧ PayloadOf s.code x payload ∧ payload.length ≤ 2 ^ 32 - 1 := by
  have hbits {b : Byte} (hb : b ∈ x) : bitsAccepted s.code (.pack b) = some (readCode s.code b) :=
    bitsAccepted_pack.mpr ⟨hcodes b hb, rfl⟩
  have haccepted : ∀ i ∈ x.map Instr.pack, bitsAccepted s.code i ≠ none := by
    rw [List.forall_mem_map]
    exact fun b hb => by simp [hbits hb]
  have hstream : codeBits s.code x = runBits s.code (x.map .pack) := by
    rw [codeBits, runBits, List.flatMap_map]
    exact List.flatMap_congr fun b hb => by rw [hbits hb, Option.getD_some]
  obtain ⟨t, u, -, payload, hpack, -, -, -, -, -, hflush, huclear, hout, hpayload, -, -⟩ :=
    packingRun s (x.map .pack) _ hclear hacc hnacc haccepted hstream hroom
  have hrun : execAll (x.map .pack ++ [.pflush]) s = .next u := by
    rw [execAll_append hpack, execAll_cons hflush]
    rfl
  have hops : ∀ i ∈ x.map Instr.pack ++ [.pflush], i.opcode ∈ [Opcode.pack, .pflush] := by
    rw [List.forall_mem_append, List.forall_mem_map]
    exact ⟨fun _ _ => by simp [Instr.opcode], by simp [Instr.opcode]⟩
  have hlen := congrArg List.length hpayload
  rw [bitsOfBytes_length, List.length_append, List.length_replicate] at hlen
  exact ⟨u, payload, hrun, huclear, execAll_packing_sameDecoder hops hrun, hout, ⟨_, Nat.mod_lt _ (by decide), hpayload⟩,
    by omega⟩

/-! ## Reading codes back (rules R200, R202) -/

section Bit
variable {c : Cells 8 Bits} {u : Unpack} {b : Bool}

theorem bitStep_pad (hrem : u.rem = 0) : bitStep c u false = .ok u := by
  rw [bitStep, if_pos hrem, if_neg nofun]

theorem bitStep_leaf {t : Byte} (hrem : u.rem ≠ 0) (hleaf : leafAt c (u.path ++ [b]) = some t) :
    bitStep c u b = .ok { rem := u.rem - 1, cnt := u.cnt + 1, path := [], out := u.out ++ [t] } := by
  simp only [bitStep, if_neg hrem, hleaf]

theorem bitStep_inner (hrem : u.rem ≠ 0) (hleaf : leafAt c (u.path ++ [b]) = none)
    (hinner : innerAt c (u.path ++ [b]) = true) : bitStep c u b = .ok { u with path := u.path ++ [b] } := by
  simp only [bitStep, if_neg hrem, hleaf, if_pos hinner]

end Bit

section PrefixFree
variable {c : Cells 8 Bits} (hfree : PrefixFree c)
include hfree

/-- An entry of a table of rule R154 is the code of one symbol only. -/
theorem PrefixFree.leafAt_readCode {b : Byte} (hb : readCode c b ≠ []) : leafAt c (readCode c b) = some b := by
  refine (leafAt_eq_some ..).mpr ⟨rfl, fun u hu heq => ?_⟩
  exact hfree u b (BitVec.ne_of_lt hu) (heq ▸ hb) hb (heq ▸ List.prefix_rfl)

/-- No code of a table of rule R154 ends inside another one. -/
theorem PrefixFree.leafAt_of_properPrefix {b : Byte} {p : Bits} (hp : p ≠ [])
    (hpre : properPrefix p (readCode c b) = true) : leafAt c p = none := by
  obtain ⟨hpre, hlt⟩ := (properPrefix_iff ..).mp hpre
  refine (leafAt_eq_none ..).mpr fun u hu => ?_
  subst hu
  have hne : u ≠ b := by
    rintro rfl
    exact hlt.false
  exact hfree u b hne hp (List.ne_nil_of_length_pos (Nat.zero_lt_of_lt hlt)) hpre

end PrefixFree

/-- The decoder inside a payload with `rem` symbols to emit, which are those of `x`: its position `p` stands before the
end of the next code, and with the bits not read yet it makes the codes of `x` and fewer than eight zeros. -/
structure Awaits (c : Cells 8 Bits) (rem : Count) (p bits : Bits) (x : List Byte) : Prop where
  rem_eq : rem.toNat = x.length
  bits_eq : ∃ k < 8, p ++ bits = codeBits c x ++ List.replicate k false
  inside : ∀ b y, x = b :: y → p.length < (readCode c b).length
  finished : x = [] → p = []
  coded : ∀ b ∈ x, readCode c b ≠ []

/-- At the start of a code only the counter and the bits matter. -/
theorem Awaits.start {c : Cells 8 Bits} {rem : Count} {bits : Bits} {x : List Byte} (hrem : rem.toNat = x.length)
    (hbits : ∃ k < 8, bits = codeBits c x ++ List.replicate k false) (hcoded : ∀ b ∈ x, readCode c b ≠ []) :
    Awaits c rem [] bits x where
  rem_eq := hrem
  bits_eq := hbits
  inside b _ hx := List.length_pos_of_ne_nil (hcoded b (hx ▸ List.mem_cons_self))
  finished _ := rfl
  coded := hcoded

section Awaits
variable {c : Cells 8 Bits} {rem : Count} {p bits : Bits} {x : List Byte}

/-- A whole byte is longer than the zeros at the end, so a symbol is still to come. -/
theorem Awaits.ne_nil (h : Awaits c rem p bits x) (hlen : 8 ≤ bits.length) : x ≠ [] := by
  intro hx
  obtain ⟨k, hk, hbits⟩ := h.bits_eq
  rw [h.finished hx, hx] at hbits
  have hzeros : bits.length = k := by simpa [codeBits] using congrArg List.length hbits
  omega

/-- When every bit has been read, every symbol has been emitted. -/
theorem Awaits.eq_nil (h : Awaits c rem p [] x) : x = [] := by
  cases x with
  | nil => rfl
  | cons b y =>
    obtain ⟨k, -, hbits⟩ := h.bits_eq
    have hinside := h.inside b y rfl
    have hlen := congrArg List.length hbits
    simp only [codeBits, List.flatMap_cons, List.length_append, List.length_nil] at hlen
    omega

theorem Awaits.rem_ne_zero {b : Byte} {y : List Byte} (h : Awaits c rem p bits (b :: y)) : rem ≠ 0 := by
  rintro rfl
  exact nomatch h.rem_eq

end Awaits

/-- With no symbol to come only zeros are left, and each passes as a pad bit. -/
theorem Awaits.pad {c : Cells 8 Bits} {u : Unpack} {bit : Bool} {bits : Bits}
    (h : Awaits c u.rem u.path (bit :: bits) []) : bitStep c u bit = .ok u ∧ Awaits c u.rem u.path bits [] := by
  obtain ⟨k, hk, hbits⟩ := h.bits_eq
  have hpath := h.finished rfl
  rw [hpath] at hbits ⊢
  cases k with
  | zero => cases hbits
  | succ k =>
    obtain ⟨rfl, rfl⟩ : bit = false ∧ bits = List.replicate k false := by
      simpa [codeBits, List.replicate_succ] using hbits
    exact ⟨bitStep_pad (BitVec.eq_of_toNat_eq h.rem_eq), .start h.rem_eq ⟨k, by omega, rfl⟩ nofun⟩

/-- The next bit of a payload lies on the code of the next symbol. -/
theorem Awaits.prefix_code {c : Cells 8 Bits} {rem : Count} {p : Bits} {bit : Bool} {bits : Bits} {b : Byte}
    {y : List Byte} (h : Awaits c rem p (bit :: bits) (b :: y)) : p ++ [bit] <+: readCode c b := by
  obtain ⟨k, -, hbits⟩ := h.bits_eq
  rw [codeBits, List.flatMap_cons, List.append_assoc] at hbits
  have hlt := h.inside b y rfl
  refine List.prefix_of_prefix_length_le (l₃ := p ++ bit :: bits) ⟨bits, by simp⟩ (hbits ▸ List.prefix_append ..) ?_
  rw [List.length_append, List.length_singleton]
  exact hlt

/-- Each bit of a payload passes: it is a pad bit, or completes the next symbol, or moves on inside its code. -/
theorem Awaits.bitStep_ok {c : Cells 8 Bits} (hfree : PrefixFree c) {u : Unpack} {bit : Bool} {bits : Bits}
    {x : List Byte} (h : Awaits c u.rem u.path (bit :: bits) x) :
    ∃ u' y, bitStep c u bit = .ok u' ∧ u'.out ++ y = u.out ++ x ∧ Awaits c u'.rem u'.path bits y := by
  cases x with
  | nil => exact ⟨u, [], h.pad.1, rfl, h.pad.2⟩
  | cons b y =>
    have hrem := h.rem_ne_zero
    have hpre := h.prefix_code
    obtain ⟨hb, hcoded⟩ := List.forall_mem_cons.mp h.coded
    obtain ⟨k, hk, hbits⟩ := h.bits_eq
    rw [List.append_cons] at hbits
    by_cases hend : u.path ++ [bit] = readCode c b
    · refine ⟨_, y, bitStep_leaf hrem (hend ▸ hfree.leafAt_readCode hb), by simp, .start ?_ ⟨k, hk, ?_⟩ hcoded⟩
      · have hlen := h.rem_eq
        rw [List.length_cons] at hlen
        rw [BitVec.toNat_sub_of_le (by bv_omega)]
        exact Nat.sub_eq_of_eq_add hlen
      · rw [hend, codeBits, List.flatMap_cons, List.append_assoc] at hbits
        exact List.append_cancel_left hbits
    · have hlt : (u.path ++ [bit]).length < (readCode c b).length :=
        lt_of_le_of_ne hpre.length_le fun hlen => hend (hpre.eq_of_length hlen)
      have hproper := (properPrefix_iff ..).mpr ⟨hpre, hlt⟩
      refine ⟨_, b :: y, bitStep_inner hrem (hfree.leafAt_of_properPrefix (by simp) hproper)
        ((innerAt_iff ..).mpr ⟨b, hproper⟩), rfl, h.rem_eq, ⟨k, hk, hbits⟩, ?_, nofun, h.coded⟩
      rintro _ _ ⟨⟩
      exact hlt

/-- The low `k` bits of a byte, the highest of them first: what `unpackBits` reads. -/
def lowBits (v : Byte) : Nat → Bits
  | 0 => []
  | k + 1 => v.getLsbD k :: lowBits v k

theorem lowBits_eight (v : Byte) : lowBits v 8 = bitsOfByte v := rfl

/-- The bits of a byte of a payload pass, and emit the symbols that end in it. -/
theorem Awaits.unpackBits_ok {c : Cells 8 Bits} (hfree : PrefixFree c) {v : Byte} {k : Nat} {u : Unpack} {bits : Bits}
    {x : List Byte} (h : Awaits c u.rem u.path (lowBits v k ++ bits) x) :
    ∃ u' y, unpackBits c v k u = .ok u' ∧ u'.out ++ y = u.out ++ x ∧ Awaits c u'.rem u'.path bits y := by
  induction k generalizing u x with
  | zero => exact ⟨u, x, rfl, rfl, h⟩
  | succ k ih =>
    obtain ⟨u₁, x₁, hstep, hout, h₁⟩ := h.bitStep_ok hfree
    obtain ⟨u₂, x₂, hrest, hout', h₂⟩ := ih h₁
    refine ⟨u₂, x₂, ?_, hout'.trans hout, h₂⟩
    simp only [unpackBits, hstep, hrest]

/-! ## Decoding a payload (rules R201 to R204) -/

section Commands
variable {s : State} (hclear : s.fault = false)
include hclear

theorem exec_dbegin_idle (n : Count) (hidle : s.dact = false) :
    exec (.dbegin n) s = .next (((s.setDecoder n 0 0 []).setDact true).afterOk 0) := by
  refine (unlessFaulted_clear s _ hclear).trans ?_
  rw [State.dbeginRefused, hidle, if_neg nofun, respond_eq]

theorem exec_dbyte_passes {v : Byte} {u : Unpack} (hopen : s.dact = true) (hrem : s.drem ≠ 0)
    (hroom : s.dincnt.toNat ≠ 2 ^ 32 - 1)
    (hu : unpackBits s.code v 8 { rem := s.drem, cnt := s.dcnt, path := s.path, out := [] } = .ok u) :
    exec (.dbyte v) s = .next (((s.setDecoder u.rem u.cnt (s.dincnt + 1) u.path).emitSym u.out).afterOk
      (BitVec.ofNat 32 u.out.length)) := by
  refine (unlessFaulted_clear s _ hclear).trans ?_
  rw [State.decodeRefused, hopen, if_neg nofun, if_neg hrem, if_neg hroom, hu]
  rfl

theorem exec_dend_finished (hopen : s.dact = true) (hrem : s.drem = 0) :
    exec .dend s = .next ((s.setDact false).afterOk s.dcnt) := by
  refine (unlessFaulted_clear s _ hclear).trans ?_
  rw [State.decodeRefused, hopen, if_neg nofun, if_neg (not_not_intro hrem), respond_eq]

end Commands

/-- An open decode without a fault, inside a payload of the code table. -/
structure Decoding (s : State) (bits : Bits) (x : List Byte) : Prop where
  clear : s.fault = false
  isOpen : s.dact = true
  free : PrefixFree s.code
  awaits : Awaits s.code s.drem s.path bits x

/-- `DBYTE` with the next byte of a payload emits the symbols that end in it. -/
theorem Decoding.exec_dbyte {s : State} {v : Byte} {bits : Bits} {x : List Byte}
    (h : Decoding s (bitsOfByte v ++ bits) x) (hroom : s.dincnt.toNat ≠ 2 ^ 32 - 1) :
    ∃ t y, exec (.dbyte v) s = .next t ∧ Decoding t bits y ∧ t.symout ++ y = s.symout ++ x ∧
      t.dincnt = s.dincnt + 1 := by
  have hrem : s.drem ≠ 0 := by
    obtain ⟨b, y, rfl⟩ := List.exists_cons_of_ne_nil (h.awaits.ne_nil (by simp))
    exact h.awaits.rem_ne_zero
  have hbyte := h.awaits
  rw [← lowBits_eight] at hbyte
  obtain ⟨u, y, hu, hout, hawaits⟩ :=
    Awaits.unpackBits_ok (u := { rem := s.drem, cnt := s.dcnt, path := s.path, out := [] }) h.free hbyte
  refine ⟨_, y, exec_dbyte_passes h.clear h.isOpen hrem hroom hu, ⟨h.clear, h.isOpen, h.free, hawaits⟩, ?_, rfl⟩
  exact (List.append_assoc ..).trans (congrArg (s.symout ++ ·) hout)

/-- `DBYTE` for each byte of a payload emits its whole sequence. -/
theorem Decoding.execAll_dbyte {payload : List Byte} {s : State} {x : List Byte}
    (h : Decoding s (bitsOfBytes payload) x) (hroom : s.dincnt.toNat + payload.length ≤ 2 ^ 32 - 1) :
    ∃ t, execAll (payload.map .dbyte) s = .next t ∧ Decoding t [] [] ∧ t.symout = s.symout ++ x := by
  induction payload generalizing s x with
  | nil =>
    obtain rfl := h.awaits.eq_nil
    exact ⟨s, rfl, h, (List.append_nil _).symm⟩
  | cons v payload ih =>
    rw [List.length_cons] at hroom
    obtain ⟨t, y, ht, hdec, hsym, hcnt⟩ := Decoding.exec_dbyte (bits := bitsOfBytes payload) h (by omega)
    have hcnt' : t.dincnt.toNat = s.dincnt.toNat + 1 := by
      rw [hcnt]
      exact BitVec.toNat_add_of_lt (by simp; omega)
    obtain ⟨w, hw, hdone, hsym'⟩ := ih hdec (by omega)
    refine ⟨w, ?_, hdone, hsym'.trans hsym⟩
    rw [List.map_cons, execAll_cons ht, hw]

/-- Decoding the payload of a sequence with a table of rule R154 emits the sequence. -/
theorem execAll_decodeCommands {s : State} {x payload : List Byte} (hclear : s.fault = false) (hidle : s.dact = false)
    (hfree : PrefixFree s.code) (hcodes : ∀ b ∈ x, s.codeAt b ≠ []) (hx : x.length < 2 ^ 32)
    (hpayload : PayloadOf s.code x payload) (hlen : payload.length ≤ 2 ^ 32 - 1) :
    ∃ u, execAll (decodeCommands (BitVec.ofNat 32 x.length) payload) s = .next u ∧ u.fault = false ∧
      u.symout = s.symout ++ x := by
  have hopened : Decoding (((s.setDecoder (BitVec.ofNat 32 x.length) 0 0 []).setDact true).afterOk 0)
      (bitsOfBytes payload) x :=
    ⟨hclear, rfl, hfree, .start ((BitVec.toNat_ofNat ..).trans (Nat.mod_eq_of_lt hx)) hpayload hcodes⟩
  obtain ⟨t, ht, hdone, hsym⟩ := hopened.execAll_dbyte (by simpa [State.afterOk] using hlen)
  have hrem : t.drem = 0 := BitVec.eq_of_toNat_eq hdone.awaits.rem_eq
  refine ⟨(t.setDact false).afterOk t.dcnt, ?_, hdone.clear, hsym⟩
  rw [decodeCommands, execAll_cons (exec_dbegin_idle hclear _ hidle), Pseudo.expand, execAll_append ht,
    execAll_cons (exec_dend_finished hdone.clear hdone.isOpen hrem), execAll]

/-- Settles O46: packing appends the payload of the sequence and leaves the decoder and the table as they are, and
decoding reads one code after the other back from it. -/
theorem packThenDecode : Obligations.PackThenDecode := by
  intro s x hclear hidle hacc hnacc hfree hcodes hx hroom
  have hbits : (codeBits s.code x).length = (x.map fun b => (s.codeAt b).length).sum := List.length_flatMap
  rw [← hbits] at hroom
  obtain ⟨t, payload, hpack, htclear, hsame, hout, hpayload, hlen⟩ :=
    execAll_pack_pflush hclear hacc hnacc hcodes hroom
  have hcodes' : ∀ b ∈ x, t.codeAt b ≠ [] := fun b hb => by
    rw [State.codeAt, hsame.code_eq]
    exact hcodes b hb
  obtain ⟨u, hdecode, huclear, hsym⟩ := execAll_decodeCommands htclear (hsame.dact_eq.trans hidle)
    (hsame.code_eq ▸ hfree) hcodes' hx (hsame.code_eq ▸ hpayload) hlen
  exact ⟨t, u, payload, hpack, htclear, hout, hdecode, huclear, hsame.symout_eq ▸ hsym⟩

end Sys2Proof.Machine

/-! Proofs of the family 45_decoder.md: `DBEGIN` (O41), `DBYTE` (O42), `DEND` (O43), the stop rule (O44), decoding with a
lone-symbol table (O45), and the round trip through the block (O47). -/

namespace Sys2Proof.Machine

/-! ## `DBEGIN` and `DEND` (rules R201, R203) -/

/-- The state after a `DBEGIN` that completes. -/
def State.opened (s : State) (n : Count) : State :=
  ((s.setDecoder n 0 0 []).setDact true).afterOk 0

/-- The operand of `DBEGIN` is no part of what fault entry records. -/
theorem head_dbegin (n : Count) : (Instr.dbegin n).head = 0x5000 := by
  change 0x50#8 ++ 0x00#8 = (0x5000 : BitVec 16)
  rfl

/-- Settles O41: the one check, and the effect. -/
theorem dbeginRule : Obligations.DbeginRule := by
  refine fun n => ⟨rfl, fun s hclear => ⟨fun hopen => ?_, fun hidle => exec_dbegin_idle hclear n hidle⟩⟩
  refine (unlessFaulted_clear s _ hclear).trans ?_
  rw [State.dbeginRefused, if_pos hopen, raiseSeq_eq, head_dbegin]

theorem exec_dend_refused {s : State} (hclear : s.fault = false) (hclosed : s.dact = false) :
    exec .dend s = .next (s.afterFault 0x5200 .seq s.status) := by
  refine (unlessFaulted_clear s _ hclear).trans ?_
  rw [State.decodeRefused, hclosed, if_pos Bool.not_false]
  rfl

theorem exec_dend_missing {s : State} (hclear : s.fault = false) (hopen : s.dact = true) (hrem : s.drem ≠ 0) :
    exec .dend s = .next (s.afterFault 0x5200 .fmtTrunc s.drem) := by
  refine (unlessFaulted_clear s _ hclear).trans ?_
  rw [State.decodeRefused, hopen, if_neg nofun, if_pos hrem]
  rfl

/-- Settles O43: the two checks in their order, and the effect. -/
theorem dendRule : Obligations.DendRule :=
  ⟨rfl, fun _ hclear => ⟨exec_dend_refused hclear, exec_dend_missing hclear, exec_dend_finished hclear⟩⟩

/-! ## `DBYTE`: its checks and its outcome by the bits (rule R202) -/

/-- The working values with which `DBYTE` starts. -/
def State.unpack (s : State) : Unpack :=
  { rem := s.drem, cnt := s.dcnt, path := s.path, out := [] }

theorem exec_dbyte_refused {s : State} (v : Byte) (hclear : s.fault = false) (hclosed : s.dact = false) :
    exec (.dbyte v) s = .next (s.afterFault (0x51#8 ++ v) .seq s.status) := by
  refine (unlessFaulted_clear s _ hclear).trans ?_
  rw [State.decodeRefused, hclosed, if_pos Bool.not_false]
  rfl

theorem exec_dbyte_trailing {s : State} (v : Byte) (hclear : s.fault = false) (hopen : s.dact = true)
    (hrem : s.drem = 0) : exec (.dbyte v) s = .next (s.afterFault (0x51#8 ++ v) .fmtTrail (v.setWidth 32)) := by
  refine (unlessFaulted_clear s _ hclear).trans ?_
  rw [State.decodeRefused, hopen, if_neg nofun, if_pos hrem]
  rfl

section Room
variable {s : State} (v : Byte) (hclear : s.fault = false) (hopen : s.dact = true) (hrem : s.drem ≠ 0)
include hclear hopen hrem

theorem exec_dbyte_full (hfull : s.dincnt.toNat = 2 ^ 32 - 1) :
    exec (.dbyte v) s = .next (s.afterFault (0x51#8 ++ v) .overflow 0x102) := by
  refine (unlessFaulted_clear s _ hclear).trans ?_
  rw [State.decodeRefused, hopen, if_neg nofun, if_neg hrem, if_pos hfull]
  rfl

theorem exec_dbyte_fails (hroom : s.dincnt.toNat ≠ 2 ^ 32 - 1) {e : ResultCode} {k : Nat}
    (hbits : unpackBits s.code v 8 s.unpack = .error (e, k)) :
    exec (.dbyte v) s = .next (s.afterFault (0x51#8 ++ v) e (BitVec.ofNat 32 k)) := by
  refine (unlessFaulted_clear s _ hclear).trans ?_
  rw [State.decodeRefused, hopen, if_neg nofun, if_neg hrem, if_neg hroom, ← State.unpack, hbits]
  rfl

end Room

/-! ## The bits of a byte as the relation reads them (rules R200, R202) -/

/-- The working values after bits that leave `rem` symbols and position `p` and emit `out`. -/
def Unpack.advance (u : Unpack) (rem : Nat) (p : Bits) (out : List Byte) : Unpack :=
  { rem := BitVec.ofNat 32 rem, cnt := u.cnt + BitVec.ofNat 32 out.length, path := p, out := u.out ++ out }

theorem Unpack.advance_self (u : Unpack) : u.advance u.rem.toNat u.path [] = u := by
  simp [Unpack.advance]

theorem Unpack.advance_cons (u : Unpack) (t : Byte) (rem : Nat) (p : Bits) (out : List Byte) :
    Unpack.advance { rem := u.rem - 1, cnt := u.cnt + 1, path := [], out := u.out ++ [t] } rem p out =
      u.advance rem p (t :: out) := by
  simp [Unpack.advance, BitVec.ofNat_add, BitVec.add_assoc, BitVec.add_comm 1#32]

section NoBranch
variable {c : Cells 8 Bits} {p : Bits}

/-- `p` is an inner node of the implied tree where it begins an entry and is none itself (rule R200). -/
theorem innerAt_of_prefix {t : Byte} (hno : ∀ u, readCode c u ≠ p) (ht : p <+: readCode c t) : innerAt c p = true := by
  refine (innerAt_iff ..).mpr ⟨t, (properPrefix_iff ..).mpr ⟨ht, ?_⟩⟩
  exact lt_of_le_of_ne ht.length_le fun hlen => hno t (ht.eq_of_length hlen).symm

theorem NoBranch.leafAt (h : NoBranch c p) : leafAt c p = none :=
  (leafAt_eq_none ..).mpr fun u hu => h u (hu ▸ List.prefix_rfl)

theorem NoBranch.innerAt (h : NoBranch c p) : innerAt c p = false := by
  rw [← Bool.not_eq_true, innerAt_iff]
  rintro ⟨u, hu⟩
  exact h u ((properPrefix_iff ..).mp hu).1

end NoBranch

/-- A bit that the relation reads passes, and moves the working values as it says. -/
theorem bitStep_of_reads {c : Cells 8 Bits} {u : Unpack} {b : Bool} {bits : Bits} {rem : Nat} {p : Bits}
    {out : List Byte} (h : Reads c u.rem.toNat u.path (b :: bits) rem p out) :
    ∃ u' out', bitStep c u b = .ok u' ∧ Reads c u'.rem.toNat u'.path bits rem p out' ∧
      u'.advance rem p out' = u.advance rem p out := by
  generalize hrem : u.rem.toNat = r, hpath : u.path = q at h
  have hpos {n : Nat} (hn : r = n + 1) : u.rem ≠ 0 := by
    intro h0
    rw [h0, hn] at hrem
    cases hrem
  cases h with
  | pad h => exact ⟨u, out, bitStep_pad (BitVec.eq_of_toNat_eq hrem), by rwa [hrem, hpath], rfl⟩
  | @leaf n _ _ _ _ _ t out ht h =>
    have hstep := bitStep_leaf (c := c) (hpos rfl) (hpath ▸ (leafAt_eq_some ..).mpr ht)
    have hleft : (u.rem - 1).toNat = n := by bv_omega
    exact ⟨_, out, hstep, hleft ▸ h, u.advance_cons t rem p out⟩
  | inner hno ht h =>
    have hstep := bitStep_inner (c := c) (hpos rfl) (hpath ▸ (leafAt_eq_none ..).mpr hno)
      (hpath ▸ innerAt_of_prefix hno ht)
    exact ⟨_, out, hstep, by rwa [hrem, hpath], rfl⟩

/-- The bits of a byte that the relation reads pass, and move the working values as it says. -/
theorem unpackBits_of_reads {c : Cells 8 Bits} {v : Byte} {j m : Nat} {u : Unpack} {rem : Nat} {p : Bits}
    {out : List Byte} (h : Reads c u.rem.toNat u.path ((lowBits v (j + m)).take m) rem p out) :
    unpackBits c v (j + m) u = unpackBits c v j (u.advance rem p out) := by
  induction m generalizing u out with
  | zero =>
    rw [List.take_zero] at h
    generalize hrem : u.rem.toNat = r, hpath : u.path = q at h
    cases h
    rw [← hrem, ← hpath, u.advance_self]
    rfl
  | succ m ih =>
    obtain ⟨u', out', hstep, hrest, hadvance⟩ := bitStep_of_reads h
    rw [← hadvance, ← ih hrest, ← Nat.add_assoc]
    have hbit : bitStep c u (v.getLsbD (j + m)) = .ok u' := hstep
    simp only [unpackBits, hbit]

/-- A 1 among the pad bits fails. -/
theorem bitStep_pad_one {c : Cells 8 Bits} {u : Unpack} (hrem : u.rem = 0) : bitStep c u true = .error .fmtPad := by
  rw [bitStep, if_pos hrem, if_pos rfl]

/-- A bit without a branch fails. -/
theorem bitStep_noBranch {c : Cells 8 Bits} {u : Unpack} {b : Bool} (hrem : u.rem ≠ 0)
    (hno : NoBranch c (u.path ++ [b])) : bitStep c u b = .error .fmtNoCode := by
  simp only [bitStep, if_neg hrem, hno.leafAt, hno.innerAt]
  rfl

/-- The next bit fails: it is a 1 in the pad, or the implied tree has no branch for it (rule R202). -/
def BitFails (c : Cells 8 Bits) (rem : Nat) (p : Bits) (b : Bool) : Prop :=
  if rem = 0 then b = true else NoBranch c (p ++ [b])

/-- A bit that does not fail is read, whatever follows it. -/
theorem reads_cons_of_not_fails {c : Cells 8 Bits} {rem : Nat} {p : Bits} {b : Bool} (h : ¬ BitFails c rem p b) :
    ∃ rem₁ p₁ pre, ∀ {bits rem' p' out}, Reads c rem₁ p₁ bits rem' p' out →
      Reads c rem p (b :: bits) rem' p' (pre ++ out) := by
  cases rem with
  | zero =>
    obtain rfl : b = false := by simpa [BitFails] using h
    exact ⟨0, p, [], .pad⟩
  | succ rem =>
    obtain ⟨t, ht⟩ : ∃ t, p ++ [b] <+: readCode c t := by simpa [BitFails, NoBranch] using h
    cases hleaf : leafAt c (p ++ [b]) with
    | some u => exact ⟨rem, [], [u], .leaf ((leafAt_eq_some ..).mp hleaf)⟩
    | none => exact ⟨rem + 1, p ++ [b], [], .inner ((leafAt_eq_none ..).mp hleaf) ht⟩

/-- A bit string is read as a whole, or as far as a bit that fails. -/
theorem reads_or_fails (c : Cells 8 Bits) (rem : Nat) (p bits : Bits) :
    (∃ rem' p' out, Reads c rem p bits rem' p' out) ∨
    ∃ pre b post rem' p' out, bits = pre ++ b :: post ∧ Reads c rem p pre rem' p' out ∧ BitFails c rem' p' b := by
  induction bits generalizing rem p with
  | nil => exact .inl ⟨rem, p, [], .done rem p⟩
  | cons b bits ih =>
    by_cases hfails : BitFails c rem p b
    · exact .inr ⟨[], b, bits, rem, p, [], rfl, .done rem p, hfails⟩
    obtain ⟨rem₁, p₁, emitted, hread⟩ := reads_cons_of_not_fails hfails
    obtain ⟨rem', p', out, h⟩ | ⟨pre, d, post, rem', p', out, rfl, h, hd⟩ := ih rem₁ p₁
    · exact .inl ⟨rem', p', emitted ++ out, hread h⟩
    · exact .inr ⟨b :: pre, d, post, rem', p', emitted ++ out, rfl, hread h, hd⟩

/-- Reading adds no symbol to those still to emit. -/
theorem Reads.rem_le {c : Cells 8 Bits} {rem rem' : Nat} {p p' bits : Bits} {out : List Byte}
    (h : Reads c rem p bits rem' p' out) : rem' ≤ rem := by
  induction h with
  | done => exact Nat.le_refl _
  | pad _ ih => exact ih
  | leaf _ _ ih => exact Nat.le_succ_of_le ih
  | inner _ _ _ ih => exact ih

/-! ## The outcome of a byte (rule R202) -/

theorem bitsOfByte_getElem? (v : Byte) {i : Nat} (hi : i < 8) : (bitsOfByte v)[i]? = some (v.getLsbD (7 - i)) := by
  interval_cases i <;> rfl

/-- A place among the bits of a byte is a bit number, counted from the other end. -/
theorem bitsOfByte_split {v : Byte} {pre post : Bits} {b : Bool} (h : bitsOfByte v = pre ++ b :: post) :
    ∃ k < 8, pre = (bitsOfByte v).take (7 - k) ∧ v.getLsbD k = b := by
  have hlen := congrArg List.length h
  rw [bitsOfByte_length, List.length_append, List.length_cons] at hlen
  have hbit := bitsOfByte_getElem? v (i := pre.length) (by omega)
  rw [h, List.getElem?_append_right (Nat.le_refl _), Nat.sub_self, List.getElem?_cons_zero] at hbit
  have hplace : 7 - (7 - pre.length) = pre.length := by omega
  exact ⟨7 - pre.length, by omega, by rw [h, hplace, List.take_left], (Option.some.inj hbit).symm⟩

section Outcome
variable {s : State} {v : Byte} {rem : Nat} {p : Bits} {out : List Byte}

/-- A byte that the relation reads as a whole passes. -/
theorem unpackBits_of_reads_byte (h : Reads s.code s.drem.toNat s.path (bitsOfByte v) rem p out) :
    unpackBits s.code v 8 s.unpack = .ok (s.unpack.advance rem p out) :=
  unpackBits_of_reads (j := 0) (m := 8) (u := s.unpack) h

variable (hclear : s.fault = false) (hopen : s.dact = true) (hrem : s.drem ≠ 0) (hroom : s.dincnt.toNat ≠ 2 ^ 32 - 1)
include hclear hopen hrem hroom

theorem exec_dbyte_of_reads (h : Reads s.code s.drem.toNat s.path (bitsOfByte v) rem p out) :
    exec (.dbyte v) s = .next (State.afterOk
      { s with
        drem := BitVec.ofNat 32 rem
        dcnt := s.dcnt + BitVec.ofNat 32 out.length
        dincnt := s.dincnt + 1
        path := p
        symout := s.symout ++ out }
      (BitVec.ofNat 32 out.length)) :=
  exec_dbyte_passes hclear hopen hrem hroom (unpackBits_of_reads_byte h)

/-- Where the relation reads the bits before bit `k`, the fault of that bit is the byte's. -/
theorem exec_dbyte_of_bitStep {k : Nat} (hk : k < 8)
    (h : Reads s.code s.drem.toNat s.path ((bitsOfByte v).take (7 - k)) rem p out) {e : ResultCode}
    (hbit : bitStep s.code (s.unpack.advance rem p out) (v.getLsbD k) = .error e) :
    exec (.dbyte v) s = .next (s.afterFault (0x51#8 ++ v) e (BitVec.ofNat 32 k)) := by
  have hall : k + 1 + (7 - k) = 8 := by omega
  have hread := unpackBits_of_reads (v := v) (j := k + 1) (m := 7 - k) (u := s.unpack) (by rw [hall]; exact h)
  rw [hall] at hread
  refine exec_dbyte_fails v hclear hopen hrem hroom (hread.trans ?_)
  simp only [unpackBits, hbit]

theorem exec_dbyte_of_pad_one {k : Nat} (hk : k < 8)
    (h : Reads s.code s.drem.toNat s.path ((bitsOfByte v).take (7 - k)) 0 p out) (hbit : v.getLsbD k = true) :
    exec (.dbyte v) s = .next (s.afterFault (0x51#8 ++ v) .fmtPad (BitVec.ofNat 32 k)) :=
  exec_dbyte_of_bitStep hclear hopen hrem hroom hk h (hbit ▸ bitStep_pad_one rfl)

theorem exec_dbyte_of_noBranch {k : Nat} (hk : k < 8)
    (h : Reads s.code s.drem.toNat s.path ((bitsOfByte v).take (7 - k)) (rem + 1) p out)
    (hno : NoBranch s.code (p ++ [v.getLsbD k])) :
    exec (.dbyte v) s = .next (s.afterFault (0x51#8 ++ v) .fmtNoCode (BitVec.ofNat 32 k)) := by
  have hleft : BitVec.ofNat 32 (rem + 1) ≠ 0 := by
    have hle := h.rem_le
    bv_omega
  exact exec_dbyte_of_bitStep hclear hopen hrem hroom hk h (bitStep_noBranch hleft hno)

end Outcome

/-- Settles O42: the checks in their order; then the bits by the relation, which reads all of them or stops at one that
fails. -/
theorem dbyteRule : Obligations.DbyteRule := by
  refine fun v => ⟨rfl, fun s hclear => ⟨exec_dbyte_refused v hclear, exec_dbyte_trailing v hclear,
    exec_dbyte_full v hclear, fun hopen hrem hroom => ⟨fun rem p out => exec_dbyte_of_reads hclear hopen hrem hroom,
    fun k p out => exec_dbyte_of_pad_one hclear hopen hrem hroom,
    fun k rem p out => exec_dbyte_of_noBranch hclear hopen hrem hroom, ?_⟩⟩⟩
  obtain hall | ⟨pre, b, post, rem, p, out, hsplit, h, hfails⟩ :=
    reads_or_fails s.code s.drem.toNat s.path (bitsOfByte v)
  · exact .inl hall
  · obtain ⟨k, hk, rfl, rfl⟩ := bitsOfByte_split hsplit
    cases rem with
    | zero => exact .inr (.inl ⟨k, p, out, hk, h, hfails⟩)
    | succ rem => exact .inr (.inr ⟨k, rem, p, out, hk, h, hfails⟩)

/-! ## The stop rule (rule R204) -/

/-- A sequence without `CLR` and `CSRR` that ends without a fault began without one: the first fault is latched. -/
theorem clear_of_execAll_clear {is : List Instr} (his : ∀ i ∈ is, i ≠ .clr ∧ ∀ idx, i ≠ .csrr idx) {s u : State}
    (hrun : execAll is s = .next u) (hclear : u.fault = false) : s.fault = false := by
  by_contra hf
  rw [Bool.not_eq_false] at hf
  rw [execAll_aborts his hf] at hrun
  cases hrun
  exact Bool.false_ne_true (hclear.symm.trans hf)

/-- A sequence runs its first command and then the others. -/
theorem exec_of_execAll_cons {i : Instr} {is : List Instr} {s u : State} (h : execAll (i :: is) s = .next u) :
    ∃ t, exec i s = .next t ∧ execAll is t = .next u := by
  rw [execAll] at h
  split at h
  next t ht => exact ⟨t, ht, h⟩
  · cases h
  · cases h

/-- An open decode that started with `base` symbols in `SYMOUT`, has `total` symbols to emit and has read `bytes` bytes:
the symbols counted are in `SYMOUT`. -/
structure InDecode (base total bytes : Nat) (s : State) : Prop where
  isOpen : s.dact = true
  emitted : s.symout.length = base + s.dcnt.toNat
  total_eq : s.decodeTotal = total
  bytes_eq : s.dincnt.toNat = bytes

/-- A passing byte emits as many symbols as it counts. -/
theorem unpackBits_counts {c : Cells 8 Bits} {v : Byte} {k total : Nat} (htotal : total < 2 ^ 32) {u u' : Unpack}
    {d : Nat} (hsum : u.cnt.toNat + u.rem.toNat = total) (hcnt : u.cnt.toNat = d + u.out.length)
    (h : unpackBits c v k u = .ok u') : u'.cnt.toNat = d + u'.out.length := by
  refine (unpackBits_keeps (P := fun w => w.cnt.toNat + w.rem.toNat = total ∧ w.cnt.toNat = d + w.out.length)
    ?_ ⟨hsum, hcnt⟩ h).2
  rintro w w' b ⟨hsum, hcnt⟩ hstep
  refine ⟨bitStep_keeps_sum htotal hsum hstep, ?_⟩
  obtain ⟨-, rfl⟩ | ⟨hrem, t, rfl⟩ | ⟨-, -, rfl⟩ := bitStep_ok_cases hstep
  · exact hcnt
  · have hpos : w.rem.toNat ≠ 0 := fun h0 => hrem (BitVec.eq_of_toNat_eq h0)
    simp only [List.length_append, List.length_singleton]
    bv_omega
  · exact hcnt

/-- A command that leaves no fault completed. -/
theorem completes_of_clear {i : Instr} {s t : State} (h : exec i s = .next t) (hclear : t.fault = false) :
    ∃ u d, Completes s i u ∧ t = u.afterOk d := by
  cases exec_leaves i s t h with
  | aborted hf => exact absurd (hf.symm.trans hclear) nofun
  | faulted => exact nomatch hclear
  | completed hu d => exact ⟨_, d, hu, rfl⟩

/-- A `DBYTE` that leaves no fault moves on inside the decode. -/
theorem InDecode.exec_dbyte {base total bytes : Nat} {s t : State} (h : InDecode base total bytes s)
    (htotal : total < 2 ^ 32) {v : Byte} (hexec : exec (.dbyte v) s = .next t) (hclear : t.fault = false) :
    InDecode base total (bytes + 1) t := by
  obtain ⟨w, d, hw, rfl⟩ := completes_of_clear hexec hclear
  have hsum := h.total_eq
  have hbytes := h.bytes_eq
  cases hw with
  | read hi => exact absurd hi (by simp [Instr.opcode])
  | accept hbits => exact nomatch hbits
  | @dbyte _ u _ _ hroom hu =>
    have hcounts : u.cnt.toNat = s.dcnt.toNat + u.out.length :=
      unpackBits_counts (u := s.unpack) htotal hsum (Nat.add_zero _).symm hu
    have hkeeps := unpackBits_keeps_sum hu (hsum.trans_lt htotal)
    refine ⟨h.isOpen, ?_, hkeeps.trans hsum, ?_⟩
    · change (s.symout ++ u.out).length = base + u.cnt.toNat
      rw [List.length_append, h.emitted, hcounts, Nat.add_assoc]
    · change (s.dincnt + 1).toNat = bytes + 1
      have hmax : s.dincnt.toNat ≠ 2 ^ 32 - 1 := hroom
      bv_omega

/-- A `DEND` that leaves no fault ends a decode that has emitted every symbol. -/
theorem InDecode.exec_dend {base total bytes : Nat} {s t : State} (h : InDecode base total bytes s)
    (hexec : exec .dend s = .next t) (hclear : t.fault = false) :
    t.symout.length = base + total ∧ t.dcnt.toNat = total ∧ t.drem = 0 ∧ t.dact = false ∧ t.dincnt.toNat = bytes := by
  obtain ⟨w, d, hw, rfl⟩ := completes_of_clear hexec hclear
  cases hw with
  | read hi => exact absurd hi (by simp [Instr.opcode])
  | accept hbits => exact nomatch hbits
  | dend _ hrem =>
    have htotal : s.dcnt.toNat = total := by
      have hsum := h.total_eq
      rwa [State.decodeTotal, hrem] at hsum
    exact ⟨htotal ▸ h.emitted, htotal, hrem, rfl, h.bytes_eq⟩

/-- The bytes of a payload and `DEND`, without a fault, end the decode. -/
theorem InDecode.execAll_dbyte_dend {base total bytes : Nat} {payload : List Byte} {s u : State}
    (h : InDecode base total bytes s) (htotal : total < 2 ^ 32)
    (hrun : execAll (payload.map Instr.dbyte ++ [Instr.dend]) s = .next u) (hclear : u.fault = false) :
    u.symout.length = base + total ∧ u.dcnt.toNat = total ∧ u.drem = 0 ∧ u.dact = false ∧
      u.dincnt.toNat = bytes + payload.length := by
  induction payload generalizing bytes s with
  | nil =>
    obtain ⟨t, ht, hu⟩ := exec_of_execAll_cons hrun
    cases hu
    exact h.exec_dend ht hclear
  | cons v payload ih =>
    obtain ⟨t, ht, hrest⟩ := exec_of_execAll_cons hrun
    have haborts : ∀ i ∈ payload.map Instr.dbyte ++ [Instr.dend], i ≠ .clr ∧ ∀ idx, i ≠ .csrr idx := by
      rw [List.forall_mem_append, List.forall_mem_map]
      exact ⟨fun _ _ => ⟨nofun, nofun⟩, by simp⟩
    have hnext := ih (h.exec_dbyte htotal ht (clear_of_execAll_clear haborts hrest hclear)) hrest
    rwa [List.length_cons, Nat.add_comm payload.length, ← Nat.add_assoc]

/-- Settles O44: `DBEGIN` starts the count, each byte that passes counts what it emits, and `DEND` completes when nothing
is left. -/
theorem decodeStopsAtCount : Obligations.DecodeStopsAtCount := by
  intro s u n payload hclear hidle hrun huclear
  rw [decodeCommands, execAll_cons (exec_dbegin_idle hclear n hidle)] at hrun
  have hstart : InDecode s.symout.length n.toNat 0 (s.opened n) :=
    ⟨rfl, rfl, Nat.zero_add _, rfl⟩
  obtain ⟨hsym, hcnt, hrem, hdact, hbytes⟩ := hstart.execAll_dbyte_dend n.isLt hrun huclear
  exact ⟨hsym, BitVec.eq_of_toNat_eq hcnt, hrem, hdact, hbytes.trans (Nat.zero_add _)⟩

/-! ## The lone-symbol table (rule R205) -/

/-- The table's only entry is `b = "0"`. -/
structure LoneTable (c : Cells 8 Bits) (b : Byte) : Prop where
  code_eq : readCode c b = [false]
  others : ∀ t, t ≠ b → readCode c t = []

section Lone
variable {c : Cells 8 Bits} {b : Byte} (h : LoneTable c b)
include h

theorem LoneTable.leastWithCode : LeastWithCode c [false] b := by
  refine ⟨h.code_eq, fun u hu => ?_⟩
  rw [h.others u (BitVec.ne_of_lt hu)]
  exact nofun

theorem LoneTable.noBranch : NoBranch c [true] := by
  intro t hpre
  by_cases ht : t = b
  · rw [ht, h.code_eq] at hpre
    simp at hpre
  · rw [h.others t ht] at hpre
    exact nomatch List.prefix_nil.mp hpre

/-- Each 0 bit emits the symbol, and is a pad bit after the last one. -/
theorem LoneTable.reads (rem m : Nat) :
    Reads c rem [] (List.replicate m false) (rem - m) [] (List.replicate (min m rem) b) := by
  induction m generalizing rem with
  | zero => simpa using Reads.done rem []
  | succ m ih =>
    cases rem with
    | zero => simpa [List.replicate_succ] using Reads.pad (ih 0)
    | succ rem =>
      rw [Nat.add_sub_add_right, Nat.add_min_add_right]
      exact .leaf h.leastWithCode (ih rem)

end Lone

/-- The state after `m` bytes of an open decode have emitted `b` for `n` times. -/
def State.emitted (s : State) (b : Byte) (n m : Nat) (rs : List Response) : State :=
  { s with
    drem := s.drem - BitVec.ofNat 32 n
    dcnt := s.dcnt + BitVec.ofNat 32 n
    dincnt := s.dincnt + BitVec.ofNat 32 m
    symout := s.symout ++ List.replicate n b
    responses := rs }

theorem State.emitted_zero (s : State) (b : Byte) : s.emitted b 0 0 s.responses = s := by
  simp [State.emitted]

theorem State.emitted_emitted (s : State) (b : Byte) (n n' m m' : Nat) (rs rs' : List Response) :
    (s.emitted b n m rs).emitted b n' m' rs' = s.emitted b (n + n') (m + m') rs' := by
  simp [State.emitted, BitVec.ofNat_add, BitVec.add_assoc, BitVec.sub_sub]

section Zeros
variable {s : State} {b : Byte} (hclear : s.fault = false) (htable : LoneTable s.code b) (hopen : s.dact = true)
  (hpath : s.path = [])
include hclear htable hopen hpath

/-- A zero byte emits the symbol eight times, or for the last symbols. -/
theorem exec_dbyte_zero (hrem : s.drem ≠ 0) (hroom : s.dincnt.toNat ≠ 2 ^ 32 - 1) :
    ∃ rs, exec (.dbyte 0) s = .next (s.emitted b (min 8 s.drem.toNat) 1 rs) := by
  have hread : Reads s.code s.drem.toNat s.path (bitsOfByte 0) _ _ _ := hpath ▸ htable.reads s.drem.toNat 8
  have hleft : BitVec.ofNat 32 (s.drem.toNat - 8) = s.drem - BitVec.ofNat 32 (min 8 s.drem.toNat) := by
    bv_omega
  have hbyte := exec_dbyte_of_reads hclear hopen hrem hroom hread
  rw [List.length_replicate, hleft] at hbyte
  exact ⟨_, hbyte⟩

/-- As many zero bytes as the symbols still to emit need. -/
theorem execAll_dbyte_zeros (hroom : s.dincnt.toNat + (s.drem.toNat + 7) / 8 ≤ 2 ^ 32 - 1) :
    ∃ rs, execAll ((List.replicate ((s.drem.toNat + 7) / 8) 0x00).map .dbyte) s =
      .next (s.emitted b s.drem.toNat ((s.drem.toNat + 7) / 8) rs) := by
  generalize hm : (s.drem.toNat + 7) / 8 = m at hroom
  induction m generalizing s with
  | zero =>
    have hrem : s.drem.toNat = 0 := by omega
    exact ⟨s.responses, by rw [hrem, State.emitted_zero]; rfl⟩
  | succ m ih =>
    have hrem : s.drem ≠ 0 := by
      intro h0
      simp [h0] at hm
    obtain ⟨rs, hbyte⟩ := exec_dbyte_zero hclear htable hopen hpath hrem (by omega)
    have hdrem : (s.emitted b (min 8 s.drem.toNat) 1 rs).drem.toNat = s.drem.toNat - 8 := by
      change (s.drem - BitVec.ofNat 32 (min 8 s.drem.toNat)).toNat = _
      bv_omega
    have hdincnt : (s.emitted b (min 8 s.drem.toNat) 1 rs).dincnt.toNat = s.dincnt.toNat + 1 := by
      change (s.dincnt + BitVec.ofNat 32 1).toNat = _
      bv_omega
    obtain ⟨rs', hrest⟩ := ih (s := s.emitted b (min 8 s.drem.toNat) 1 rs) hclear htable hopen hpath (by omega)
      (by omega)
    refine ⟨rs', ?_⟩
    rw [List.replicate_succ, List.map_cons, execAll_cons hbyte, hrest, hdrem, State.emitted_emitted, Nat.add_comm 1]
    congr 2
    omega

end Zeros

/-- A decode of `n` symbols that has emitted them all and is closed again. -/
theorem State.opened_emitted_closed {s : State} (hidle : s.dact = false) (b : Byte) (n d : Count) (m : Nat)
    (rs : List Response) : (((s.opened n).emitted b n.toNat m rs).setDact false).afterOk d =
      { s with
        drem := 0
        dcnt := n
        dincnt := BitVec.ofNat 32 m
        path := []
        symout := s.symout ++ List.replicate n.toNat b
        responses := rs ++ [{ rc := .ok, data := d }] } := by
  simp [State.emitted, State.opened, State.afterOk, State.setDecoder, State.setDact, hidle]

/-- The bits before bit `k` are zeros where the byte's higher bits are. -/
theorem bitsOfByte_take_zeros {v : Byte} {k : Nat} (hzeros : ∀ j, k < j → j < 8 → v.getLsbD j = false) :
    (bitsOfByte v).take (7 - k) = List.replicate (7 - k) false := by
  refine List.eq_replicate_iff.mpr ⟨by rw [List.length_take, bitsOfByte_length]; omega, fun bit hbit => ?_⟩
  obtain ⟨i, hi⟩ := List.mem_iff_getElem?.mp hbit
  rw [List.getElem?_take] at hi
  split at hi
  · rw [bitsOfByte_getElem? v (by omega), hzeros _ (by omega) (by omega)] at hi
    exact (Option.some.inj hi).symm
  · cases hi

/-- Settles O45: every 0 bit is the whole code of the symbol, and a 1 bit has no branch. -/
theorem loneSymbolTable : Obligations.LoneSymbolTable := by
  intro s b hclear hcode hothers
  have htable : LoneTable s.code b := ⟨hcode, hothers⟩
  refine ⟨fun n hidle => ?_, fun v k hopen hroom hpath hk hrem hzeros hone => ?_⟩
  · have hbytes : 0 + (n.toNat + 7) / 8 ≤ 2 ^ 32 - 1 := by omega
    have hdrem : n - BitVec.ofNat 32 n.toNat = 0 := by simp
    obtain ⟨rs, hrun⟩ := execAll_dbyte_zeros (s := s.opened n) hclear htable rfl rfl hbytes
    have hend := exec_dend_finished (s := (s.opened n).emitted b n.toNat ((n.toNat + 7) / 8) rs) hclear rfl hdrem
    exact ⟨_, (execAll_cons (exec_dbegin_idle hclear n hidle)).trans ((execAll_append hrun).trans
      ((execAll_cons hend).trans (congrArg Host.Outcome.next (State.opened_emitted_closed hidle b n _ _ rs))))⟩
  · obtain ⟨rem, hleft⟩ : ∃ rem, s.drem.toNat - (7 - k) = rem + 1 := ⟨s.drem.toNat - (7 - k) - 1, by omega⟩
    have hread := htable.reads s.drem.toNat (7 - k)
    rw [hleft, ← bitsOfByte_take_zeros hzeros] at hread
    have hpos : s.drem ≠ 0 := by
      intro h0
      rw [h0] at hrem
      exact Nat.not_lt_zero _ hrem
    refine exec_dbyte_of_noBranch hclear hopen hpos hroom hk (hpath ▸ hread) ?_
    rw [hpath, hone]
    exact htable.noBranch

/-! ## The frequencies of a byte sequence (rules R123, R155) -/

/-- The file holds the number of occurrences of each symbol in `x`. -/
def Counts (f : Cells 8 Count) (x : List Byte) : Prop :=
  ∀ b, (readFreq f b).toNat = x.count b

section Counts
variable {f : Cells 8 Count} {x : List Byte} (hf : Counts f x)
include hf

/-- Each occurrence of a symbol adds its code's length to the cost. -/
theorem Counts.cost_eq (code : Byte → Bits) : cost f code = (x.map fun b => (code b).length).sum := by
  rw [cost, sum_allSyms, Finset.sum_list_map_count]
  simp only [hf _, smul_eq_mul]
  refine (Finset.sum_subset (fun b _ => List.mem_toFinset.mpr (mem_allSyms b)) fun b _ hb => ?_).symm
  rw [List.count_eq_zero_of_not_mem (mt List.mem_toFinset.mpr hb), Nat.zero_mul]

/-- A code of one bit for every symbol costs the sum of the frequencies. -/
theorem Counts.freqSum_eq : freqSum f = x.length := by
  simpa [cost, freqSum] using hf.cost_eq fun _ => [false]

theorem Counts.mem_iff {b : Byte} : b ∈ x ↔ readFreq f b ≠ 0 := by
  rw [← List.count_pos_iff, ← hf b, Nat.pos_iff_ne_zero]
  exact not_congr (BitVec.toNat_inj (y := 0))

end Counts

/-- From reset, `FCNT` for every byte of a sequence counts it. -/
theorem execAll_fcnt_reset {x : List Byte} (hx : x.length < 2 ^ 32) :
    ∃ f rs, execAll (x.map .fcnt) State.reset = .next { State.reset with freq := f, responses := rs } ∧ Counts f x := by
  have hzero (b : Byte) : (State.reset.freqAt b).toNat + x.count b = x.count b := Nat.zero_add _
  obtain ⟨f, rs, hrun, hfile⟩ := execAll_fcnt (s := .reset) rfl fun b =>
    (hzero b).symm ▸ (List.count_le_length.trans_lt hx)
  exact ⟨f, rs, hrun, fun b => (hfile b).trans (hzero b)⟩

/-! ## The codes of a byte sequence (rules R154, R155) -/

/-- The symbol's own eight bits are a code in which no word begins another one. -/
theorem bitsOfByte_prefixFreeOnKeys (f : Cells 8 Count) : PrefixFreeOnKeys f bitsOfByte := fun _ _ hab _ _ hpre =>
  hab (Function.LeftInverse.injective byteOf_bitsOfByte (hpre.eq_of_length rfl))

theorem cost_bitsOfByte (f : Cells 8 Count) : cost f bitsOfByte = 8 * freqSum f := by
  simp [cost, freqSum, List.sum_map_mul_right, Nat.mul_comm 8]

/-- The codes of the tree need no more than eight bits per occurrence: with two keys or more because they are optimal,
with one because a lone symbol has a one-bit code. -/
theorem cost_codes_le {f : Cells 8 Count} {c : Cells 8 Bits} (hsum : freqSum f < 2 ^ 32)
    (hc : codesOfTree Config.leftLabel (finalBuilder candBefore f).arena (finalBuilder candBefore f).root = some c) :
    cost f (readCode c) ≤ 8 * freqSum f := by
  obtain hzero | hone | htwo : keyCount f = 0 ∨ keyCount f = 1 ∨ 2 ≤ keyCount f := by omega
  · have hkeys : presentKeys f = [] := List.length_eq_zero_iff.mp (keyCount_eq_length f ▸ hzero)
    rw [cost_eq_presentKeys, hkeys]
    exact Nat.zero_le _
  · obtain ⟨k, hk⟩ := List.length_eq_one_iff.mp (keyCount_eq_length f ▸ hone)
    cases hc.symm.trans (codesOfTree_single _ hk)
    have hlen : (readCode (writeCode [] k [false]) k).length = 1 := by simp
    rw [freqSum_eq_totalWeight, ← sum_presentKeys, cost_eq_presentKeys, hk, List.map_singleton, List.map_singleton,
      List.sum_singleton, List.sum_singleton, hlen]
    omega
  · obtain ⟨c', hc', hleast⟩ :=
      everyTieBreakIsOptimal candBefore Config.leftLabel f candBefore_refinesWeight hsum htwo
    cases hc.symm.trans hc'
    exact (hleast _ (bitsOfByte_prefixFreeOnKeys f)).trans_eq (cost_bitsOfByte f)

/-! ## The compress sequence (rules R207, R256) -/

/-- What the compress sequence leaves for the host to decode: a table whose codes can be loaded, with a code for each
symbol of `x`, the payload in `OUT`, and a decoder that is closed. -/
structure Compressed (x : List Byte) (t : State) : Prop where
  clear : t.fault = false
  closed : t.dact = false
  symout_eq : t.symout = []
  table : CodeFile t.code
  coded : ∀ b ∈ x, t.codeAt b ≠ []
  payload : PayloadOf t.code x t.out
  short : t.out.length ≤ 2 ^ 32 - 1

theorem execAll_compressCommands {x : List Byte} (hx : x.length < 2 ^ 32) :
    ∃ t, execAll (compressCommands x) State.reset = .next t ∧ Compressed x t := by
  obtain ⟨f, rs, hcount, hf⟩ := execAll_fcnt_reset hx
  have hsum : freqSum f < 2 ^ 32 := hf.freqSum_eq ▸ hx
  obtain ⟨c, hc, -, hkeys⟩ := exists_codes f hsum
  have hmake := execAll_build_assign (s := { State.reset with freq := f, responses := rs }) rfl rfl rfl hsum hc
  have hbits : (codeBits c x).length ≤ 8 * x.length := by
    rw [codeBits, List.length_flatMap, ← hf.cost_eq, ← hf.freqSum_eq]
    exact cost_codes_le hsum hc
  have hroom : 0 + ((codeBits c x).length + 7) / 8 ≤ 2 ^ 32 - 1 := by omega
  have hcoded : ∀ b ∈ x, readCode c b ≠ [] := fun b hb => (hkeys b).mpr (hf.mem_iff.mp hb)
  obtain ⟨t, payload, hpack, hclear, ⟨hcode, hdact, hsymout⟩, hout, hpayload, hlen⟩ :=
    execAll_pack_pflush (s := (State.built { State.reset with freq := f, responses := rs }).assigned c) rfl rfl rfl
      hcoded hroom
  refine ⟨t, ?_, hclear, hdact, hsymout, ?_, ?_, ?_, ?_⟩
  · rw [compressCommands, List.append_assoc, List.append_assoc]
    exact (execAll_append hcount).trans ((execAll_append hmake).trans hpack)
  · exact hcode ▸ (finalBuilder_treeInv hsum).codeFile hc
  · intro b hb
    rw [State.codeAt, hcode]
    exact hcoded b hb
  · rw [hcode, hout]
    exact hpayload
  · rw [hout]
    exact hlen

/-! ## Loading a code table (rule R257) -/

/-- `CPUSH` for each bit of a code appends them all to `LDBUF`. -/
theorem execAll_cpush {bits : Bits} {s : State} (hclear : s.fault = false) (hopen : s.lact = true)
    (hlen : s.ldbuf.length + bits.length ≤ 255) :
    ∃ rs, execAll (bits.map .cpush) s = .next { s with ldbuf := s.ldbuf ++ bits, responses := rs } := by
  induction bits generalizing s with
  | nil => exact ⟨s.responses, by simp [execAll]⟩
  | cons bit bits ih =>
    rw [List.length_cons] at hlen
    obtain ⟨-, -, hrule⟩ := cpushRule
    obtain ⟨-, -, hpush⟩ := hrule bit s hclear
    have hrest : (s.ldbuf ++ [bit]).length + bits.length ≤ 255 := by
      rw [List.length_append, List.length_singleton]
      omega
    obtain ⟨rs, hrun⟩ := ih (s := State.afterOk { s with ldbuf := s.ldbuf ++ [bit] } _) hclear hopen hrest
    refine ⟨rs, ?_⟩
    rw [List.map_cons, execAll_cons (hpush hopen (by omega)), hrun]
    simp [State.afterOk]

/-- `CDEF` of an entry that is absent and conflicts with no other one writes it. -/
theorem execAll_cdef {s : State} {b : Byte} {bits : Bits} (hclear : s.fault = false) (hlact : s.lact = false)
    (hidle : s.runOpen = false) (hfree : s.codeAt b = []) (hbits : bits ≠ []) (hlen : bits.length ≤ 255)
    (hapart : ∀ t, ¬ ConflictsAt s.code bits t) :
    ∃ rs, execAll (Pseudo.cdef b bits).expand s = .next { s with
      code := writeCode s.code b bits
      nsym := s.nsym + 1
      lact := false
      ldsym := b
      ldbuf := bits
      responses := rs } := by
  obtain ⟨-, hrule⟩ := cbeginRule b
  obtain ⟨-, -, hbegin⟩ := hrule s hclear
  obtain ⟨rs, hpush⟩ := execAll_cpush (s := State.afterOk { s with ldsym := b, ldbuf := [], lact := true } 0)
    hclear rfl (bits := bits) (by simpa [State.afterOk] using hlen)
  have hend := exec_cend_commit (s := { s with ldsym := b, ldbuf := bits, lact := true, responses := rs })
    hclear hidle hbits hfree (conflicting_eq_none hapart)
  exact ⟨_, (execAll_cons (hbegin hlact hfree)).trans ((execAll_append hpush).trans (execAll_cons hend))⟩

/-- The state is between two entries of a load of the table `c`: the entries of `todo` are absent, those of the other
symbols are as in `c`, and neither a load, a packing run nor a decode is open. -/
structure Loading (c : Cells 8 Bits) (todo : List Byte) (s : State) : Prop where
  clear : s.fault = false
  noLoad : s.lact = false
  noPack : s.pact = false
  noDecode : s.dact = false
  symout_eq : s.symout = []
  absent : ∀ b ∈ todo, s.codeAt b = []
  loaded : ∀ b, b ∉ todo → s.codeAt b = readCode c b

section Load
variable {c : Cells 8 Bits} (hc : CodeFile c) {b : Byte} {todo : List Byte} {s : State} (h : Loading c (b :: todo) s)
include h

/-- An entry that `c` does not have needs no command. -/
theorem Loading.skip (hcode : readCode c b = []) : Loading c todo s where
  __ := h
  absent t ht := h.absent t (List.mem_cons_of_mem b ht)
  loaded t ht := by
    by_cases htb : t = b
    · rw [htb, hcode]
      exact h.absent b List.mem_cons_self
    · exact h.loaded t (List.not_mem_cons_of_ne_of_not_mem htb ht)

include hc

/-- In a table of rule R154 the next entry conflicts with none that is loaded. -/
theorem Loading.not_conflictsAt (hcode : readCode c b ≠ []) (t : Byte) : ¬ ConflictsAt s.code (readCode c b) t := by
  rintro ⟨hpresent, hconf⟩
  by_cases ht : t ∈ b :: todo
  · exact hpresent (h.absent t ht)
  · have hread : readCode s.code t = readCode c t := h.loaded t ht
    have hne : t ≠ b := List.ne_of_not_mem_cons ht
    rw [hread] at hpresent hconf
    exact hconf.elim (hc.free t b hne hpresent hcode) (hc.free b t hne.symm hcode hpresent)

/-- `CDEF` of the next entry. -/
theorem Loading.execAll_cdef (hb : b ∉ todo) (hcode : readCode c b ≠ []) :
    ∃ t, execAll (Pseudo.cdef b (readCode c b)).expand s = .next t ∧ Loading c todo t := by
  have hidle : s.runOpen = false := State.runOpen_of_idle h.noPack h.noDecode
  obtain ⟨rs, hrun⟩ := Machine.execAll_cdef h.clear h.noLoad hidle (h.absent b List.mem_cons_self) hcode (hc.short b)
    (h.not_conflictsAt hc hcode)
  refine ⟨_, hrun, h.clear, rfl, h.noPack, h.noDecode, h.symout_eq, fun t ht => ?_, fun t ht => ?_⟩
  all_goals refine (readCode_writeCode ..).trans ?_
  · rw [if_neg (ne_of_mem_of_not_mem ht hb)]
    exact h.absent t (List.mem_cons_of_mem b ht)
  · by_cases htb : t = b
    · rw [if_pos htb, htb]
    · rw [if_neg htb]
      exact h.loaded t (List.not_mem_cons_of_ne_of_not_mem htb ht)

end Load

/-- The commands that load the entries of `todo`. -/
def loadEntries (c : Cells 8 Bits) (todo : List Byte) : List Instr :=
  todo.flatMap fun b => if readCode c b = [] then [] else (Pseudo.cdef b (readCode c b)).expand

theorem loadCommands_eq (c : Cells 8 Bits) : loadCommands c = loadEntries c allSyms := rfl

/-- The entries that are still absent are loaded one after the other. -/
theorem Loading.execAll_loadEntries {c : Cells 8 Bits} (hc : CodeFile c) {todo : List Byte} {s : State}
    (h : Loading c todo s) (hnodup : todo.Nodup) : ∃ t, execAll (loadEntries c todo) s = .next t ∧ Loading c [] t := by
  induction todo generalizing s with
  | nil => exact ⟨s, rfl, h⟩
  | cons b todo ih =>
    obtain ⟨hb, hnodup⟩ := List.nodup_cons.mp hnodup
    by_cases hcode : readCode c b = []
    · simpa [loadEntries, hcode] using ih (h.skip hcode) hnodup
    · obtain ⟨t, ht, hload⟩ := h.execAll_cdef hc hb hcode
      obtain ⟨u, hu, hdone⟩ := ih hload hnodup
      refine ⟨u, ?_, hdone⟩
      rw [loadEntries, List.flatMap_cons, if_neg hcode, execAll_append ht, ← hu, loadEntries]

/-- `CLR` and then the entries of a table load it, whatever the block was doing. -/
theorem execAll_clr_loadCommands {c : Cells 8 Bits} (hc : CodeFile c) (s : State) :
    ∃ t, execAll (.clr :: loadCommands c) s = .next t ∧ Loading c [] t := by
  have hstart : Loading c allSyms (s.blockReset.afterOk 0) :=
    ⟨rfl, rfl, rfl, rfl, rfl, fun b _ => readCode_nil b, fun b hb => absurd (mem_allSyms b) hb⟩
  obtain ⟨t, ht, hdone⟩ := hstart.execAll_loadEntries hc allSyms_nodup
  exact ⟨t, (execAll_cons (exec_clr s)).trans (loadCommands_eq c ▸ ht), hdone⟩

/-! ## The round trip (rule R207) -/

/-- A state with the table of a compress sequence and a closed decoder decodes its payload. -/
theorem Compressed.execAll_decodeCommands {x : List Byte} {t s : State} (h : Compressed x t) (hx : x.length < 2 ^ 32)
    (hclear : s.fault = false) (hclosed : s.dact = false) (hsymout : s.symout = [])
    (hcode : ∀ b, s.codeAt b = t.codeAt b) :
    ∃ u, execAll (decodeCommands (BitVec.ofNat 32 x.length) t.out) s = .next u ∧ u.fault = false ∧ u.symout = x := by
  have hread : readCode s.code = readCode t.code := funext hcode
  have hfree : PrefixFree s.code := by
    rw [PrefixFree, hread]
    exact h.table.free
  have hpayload : PayloadOf s.code x t.out := by
    rw [PayloadOf, codeBits, hread]
    exact h.payload
  obtain ⟨u, hu, huclear, hsym⟩ := Machine.execAll_decodeCommands hclear hclosed hfree
    (fun b hb => hcode b ▸ h.coded b hb) hx hpayload h.short
  exact ⟨u, hu, huclear, by rw [hsym, hsymout, List.nil_append]⟩

/-- Settles O47: the compress sequence leaves the payload of `x` within the limit of `OUTCNT`, because its codes are
optimal; the table it leaves, in place or loaded again entry by entry, reads it back. -/
theorem roundTrip : Obligations.RoundTrip := by
  intro x hx
  obtain ⟨t, ht, h⟩ := execAll_compressCommands hx
  obtain ⟨s, hs, hloaded⟩ := execAll_clr_loadCommands h.table t
  refine ⟨t, ht, h.clear, ?_, ?_⟩
  · exact h.execAll_decodeCommands hx h.clear h.closed h.symout_eq fun _ => rfl
  · rw [← List.cons_append, execAll_append hs]
    exact h.execAll_decodeCommands hx hloaded.clear hloaded.noDecode hloaded.symout_eq
      fun b => hloaded.loaded b List.not_mem_nil

end Sys2Proof.Machine

/-! Proofs of the family 60_exceptions.md: the common checks (O9), fault entry (O49), the faults of each command (O50),
the fault latch and its exits (O51), the mode table (O52). -/

namespace Sys2Proof.Machine

/-! ## The common checks (rule R231) -/

/-- A word other than a legal `CLR` or `CSRR` is aborted while `FAULT = 1`. -/
theorem exec_of_fault_opcode {i : Instr} {s : State} (hf : s.fault = true) (hclr : i.opcode ≠ .clr)
    (hcsrr : i.opcode ≠ .csrr) : exec i s = .next s.afterAbort :=
  exec_of_fault s i hf (fun h => hclr (h ▸ rfl)) fun _ h => hcsrr (h ▸ rfl)

theorem step_legal {s : State} {w : CmdWord} {es : List HostEvent} {i : Instr} (hp : s.pending = .command w :: es)
    (hd : decode w = .ok i) : step s = exec i { s with pending := es } :=
  (step_command hp).trans (issue_legal _ hd)

theorem step_illegal {s : State} {w : CmdWord} {es : List HostEvent} {e : Illegal} (hp : s.pending = .command w :: es)
    (hd : decode w = .error e) : step s = illegalWord w { s with pending := es } :=
  (step_command hp).trans (issue_illegal _ hd)

/-- Settles O9: a legal word runs its command, whose common check aborts all but `CLR` and `CSRR`; an illegal word's
answer has the same check in front. -/
theorem commonChecks : Obligations.CommonChecks := by
  refine fun s w es hp => ⟨fun hf => ⟨fun i hd _ => step_legal hp hd, fun i hd hclr hcsrr => ?_, fun e hd => ?_⟩,
    fun hclear => ⟨fun e hd => ?_, fun i hd => step_legal hp hd⟩⟩
  · have habort := exec_of_fault_opcode (s := { s with pending := es }) hf hclr hcsrr
    exact ⟨(step_legal hp hd).trans habort, habort⟩
  · exact (step_illegal hp hd).trans (unlessFaulted_fault _ _ hf)
  · exact (step_illegal hp hd).trans (unlessFaulted_clear _ _ hclear)

/-! ## Fault entry (rules R225, R236) -/

/-- Completing a command raises no fault. -/
theorem Completes.clear {i : Instr} {s u : State} (h : Completes s i u) (hclear : s.fault = false) :
    u.fault = false := by
  cases h with
  | clr => rfl
  | _ => exact hclear

/-- A command that raises a fault enters it with one of the codes of its row (rule R225). -/
theorem faulted_of_fault {i : Instr} {s t : State} (hclear : s.fault = false) (h : exec i s = .next t)
    (hf : t.fault = true) : ∃ e info, e ∈ faultsOf i.opcode ∧ t = s.afterFault i.head e info := by
  cases exec_leaves i s t h with
  | aborted hs => exact absurd (hs.symm.trans hclear) nofun
  | faulted he info => exact ⟨_, info, he, rfl⟩
  | completed hu d => exact absurd (hf.symm.trans (hu.clear hclear)) nofun

/-- Settles O49: a legal word faults by its command, which records the word's own bits 47:32, and an illegal one by
`E_ILLEGAL`. -/
theorem faultEntryIsPrecise : Obligations.FaultEntryIsPrecise := by
  intro s t w es hp hclear ht hf
  cases hd : decode w with
  | ok i =>
    obtain ⟨e, info, he, rfl⟩ :=
      faulted_of_fault (s := { s with pending := es }) hclear ((step_legal hp hd).symm.trans ht) hf
    obtain ⟨hok, haborted⟩ := faultsOf_named he
    exact ⟨e, info, hok, haborted, by rw [(encodeDecode w i hd).2]; rfl⟩
  | error e =>
    have hill : step s = .next (State.afterFault { s with pending := es } (headOfWord w) .illegal (dataOfWord w)) :=
      (step_illegal hp hd).trans (unlessFaulted_clear _ _ hclear)
    exact ⟨.illegal, dataOfWord w, nofun, nofun, by simpa [headOfWord] using ht.symm.trans hill⟩

/-- Settles O50: the code that fault entry writes to `ERR` is one of the command's row. -/
theorem faultsOfEachCommand : Obligations.FaultsOfEachCommand := by
  intro i s t hclear h hf
  obtain ⟨e, info, he, rfl⟩ := faulted_of_fault hclear h hf
  exact he

/-! ## The fault latch (rules R238, R239) -/

/-- `CLR` and `CSRR` have no common check, so both complete in every state. -/
theorem exec_clr_csrr_ok {i : Instr} (s : State) (hi : i.opcode = .clr ∨ i.opcode = .csrr) :
    ∃ t d, exec i s = .next t ∧ t.responses = s.responses ++ [{ rc := .ok, data := d }] := by
  cases i with
  | clr => exact ⟨_, _, exec_clr s, rfl⟩
  | csrr idx => exact ⟨_, _, execCsrr_eq idx s, rfl⟩
  | _ => simp [Instr.opcode] at hi

/-- While `FAULT = 1` every command but `CLR` adds a response and leaves the block as it is. -/
theorem exec_latched {i : Instr} {s : State} (hf : s.fault = true) (hi : i ≠ .clr) :
    ∃ rs, exec i s = .next { s with responses := rs } := by
  cases i with
  | clr => exact absurd rfl hi
  | csrr idx => exact ⟨_, execCsrr_eq idx s⟩
  | _ => exact ⟨_, exec_of_fault s _ hf nofun nofun⟩

/-- A word that is no legal `CLR`, or none at all, leaves a faulted block as it is. -/
theorem step_latched {s : State} (hf : s.fault = true) (hreset : ∀ es, s.pending ≠ .reset :: es)
    (hclr : ∀ w es, s.pending = .command w :: es → decode w ≠ .ok .clr) :
    ∃ rs, step s = .next { s with pending := s.pending.tail, responses := rs } := by
  match hp : s.pending with
  | [] => exact ⟨s.responses, by rw [step_idle hp, List.tail_nil, ← hp]⟩
  | .reset :: es => exact absurd hp (hreset es)
  | .command w :: es =>
    cases hd : decode w with
    | ok i =>
      rw [step_legal hp hd]
      exact exec_latched hf fun hi => hclr w es hp (hi ▸ hd)
    | error e =>
      rw [step_illegal hp hd]
      exact ⟨_, unlessFaulted_fault _ _ hf⟩

/-- Settles O51: the two exits return to the reset state, and every other event meets the common check. -/
theorem firstFaultIsLatched : Obligations.FirstFaultIsLatched := by
  refine ⟨rfl, fun s es _ hp => ?_, fun s w es _ hp hd => ?_, fun s => step_latched, fun i s => exec_clr_csrr_ok s⟩
  · exact step_reset hp
  · exact (step_legal hp hd).trans (exec_clr _)

/-! ## The mode table (rules R226, R255) -/

/-- The check for `E_SEQ` that a command makes, if it makes one (rule R226). -/
def State.refuses (s : State) : Instr → Bool
  | .assign => s.assignRefused
  | .cbegin _ => s.cbeginRefused
  | .cpush _ => s.cpushRefused
  | .cend => s.cendRefused
  | .dbegin _ => s.dbeginRefused
  | .dbyte _ | .dend => s.decodeRefused
  | _ => false

/-- The check fails a command exactly where the column "needs" of rule R255 does. -/
theorem State.refuses_eq (s : State) (i : Instr) : s.refuses i = !modeNeeds i.opcode s.modes := by
  cases i with
  | assign =>
    change (s.pact || s.dact) = !(!s.pact && !s.dact)
    simp
  | cend =>
    change (!s.lact || (s.pact || s.dact)) = !(s.lact && !s.pact && !s.dact)
    simp [Bool.or_assoc]
  | cbegin | dbegin => exact (Bool.not_not _).symm
  | _ => rfl

/-- A command's check for `E_SEQ` comes before its other checks (rule R226). -/
theorem exec_refused {i : Instr} {s : State} (hclear : s.fault = false) (hrefused : s.refuses i = true) :
    exec i s = .next (s.afterFault i.head .seq s.status) := by
  cases i with
  | assign | cbegin | cpush | cend | dbegin | dbyte | dend =>
    exact (unlessFaulted_clear s _ hclear).trans (if_pos hrefused)
  | _ => exact nomatch hrefused

/-- The state is not one that `E_SEQ` leaves: it has no fault, or another one. -/
def NotSeq (t : State) : Prop :=
  t.fault = true → t.err ≠ .seq

section NotSeq
variable {s : State}

theorem notSeq_raise {i : Instr} {e : ResultCode} {info : Count} (he : e ≠ .seq := by decide) :
    Yields NotSeq (raise i e info s) :=
  yields_next fun _ => he

theorem notSeq_respond {d : Count} (hclear : s.fault = false) : Yields NotSeq (respond d s) :=
  yields_next fun hf => absurd (hf.symm.trans hclear) nofun

theorem notSeq_checked {i : Instr} {refused : Bool} {rest : Result} (hclear : s.fault = false)
    (hneed : refused = false) (h : Yields NotSeq rest) :
    Yields NotSeq (unlessFaulted s (if refused then raiseSeq i s else rest)) := by
  rwa [unlessFaulted_clear s _ hclear, if_neg (by simp [hneed])]

/-- A command without `E_SEQ` in its row of rule R225 does not raise it. -/
theorem exec_notSeq_of_row {i : Instr} (hclear : s.fault = false) (hrow : .seq ∉ faultsOf i.opcode) :
    Yields NotSeq (exec i s) := by
  intro t h hf
  obtain ⟨e, info, he, rfl⟩ := faulted_of_fault hclear h hf
  exact ne_of_mem_of_not_mem he hrow

/-- A command that passes its check for `E_SEQ` raises no `E_SEQ` later. -/
theorem exec_notSeq {i : Instr} (hclear : s.fault = false) (hneed : s.refuses i = false) :
    Yields NotSeq (exec i s) := by
  cases i with
  | assign =>
    refine notSeq_checked hclear hneed ?_
    split
    · exact yields_fault _
    · exact notSeq_respond hclear
  | cbegin | cpush =>
    exact notSeq_checked hclear hneed (yields_ite (fun _ => notSeq_raise) fun _ => notSeq_respond hclear)
  | cend =>
    refine notSeq_checked hclear hneed (yields_ite (fun _ => notSeq_raise) fun _ =>
      yields_ite (fun _ => notSeq_raise) fun _ => ?_)
    split
    · exact notSeq_raise
    · exact notSeq_respond hclear
  | dbegin => exact notSeq_checked hclear hneed (notSeq_respond hclear)
  | dbyte v =>
    refine notSeq_checked hclear hneed (yields_ite (fun _ => notSeq_raise) fun _ =>
      yields_ite (fun _ => notSeq_raise) fun _ => ?_)
    split
    · obtain rfl | rfl := unpackBits_error ‹_› <;> exact notSeq_raise
    · exact notSeq_respond hclear
  | dend => exact notSeq_checked hclear hneed (yields_ite (fun _ => notSeq_raise) fun _ => notSeq_respond hclear)
  | _ => exact exec_notSeq_of_row hclear (by simp [faultsOf, Instr.opcode])

end NotSeq

/-- A read command needs no mode and moves none. -/
theorem modesAfter_read {o : Opcode} (ho : o ∈ [Opcode.nop, .csrr, .fget, .nwgt, .nlnk, .clen, .cbit]) (m : Modes) :
    modesAfter o m = m := by
  cases o with
  | nop | csrr | fget | nwgt | nlnk | clen | cbit => rfl
  | _ => simp at ho

/-- A completing command moves the mode flags as its row of rule R255 says. -/
theorem Completes.modes_eq {i : Instr} {s u : State} (h : Completes s i u) : u.modes = modesAfter i.opcode s.modes := by
  cases h with
  | read hi => exact (modesAfter_read hi _).symm
  | accept hbits =>
    cases i with
    | pack | pchr => rfl
    | _ => exact nomatch hbits
  | _ => rfl

/-- The need of a command that completes was met: a refused one faults. -/
theorem need_of_clear {i : Instr} {s t : State} (hclear : s.fault = false) (h : exec i s = .next t)
    (ht : t.fault = false) : s.refuses i = false := by
  by_contra hrefused
  rw [exec_refused hclear (Bool.eq_true_of_not_eq_false hrefused)] at h
  cases h
  exact nomatch ht

/-- Commands that open the runs of a mode: a packing run, a decode, a table load. -/
def Modes.openers (m : Modes) : List Instr :=
  (if m.pact then [.pchr 0x30] else []) ++ (if m.dact then [.dbegin 0] else []) ++ (if m.lact then [.cbegin 0] else [])

/-- Settles O52: a command's check is the table's need and stands before its other checks, fault entry keeps the mode
flags, and from reset each run can be opened beside the others. -/
theorem modeTable : Obligations.ModeTable := by
  refine ⟨fun i s hclear => ⟨fun hneed => ?_, fun t h ht => ?_, fun t h hf => ?_⟩, fun m => ⟨m.openers, ?_⟩⟩
  · exact exec_refused hclear (by rw [s.refuses_eq, hneed]; rfl)
  · obtain ⟨u, d, hu, rfl⟩ := completes_of_clear h ht
    have hneed := need_of_clear hclear h ht
    rw [s.refuses_eq, Bool.not_eq_false'] at hneed
    exact ⟨hneed, hu.modes_eq⟩
  · refine ⟨?_, fun hseq => ?_⟩
    · obtain ⟨e, info, -, rfl⟩ := faulted_of_fault hclear h hf
      rfl
    · by_contra hneed
      exact exec_notSeq hclear (by simp [s.refuses_eq, hneed]) t h hf hseq
  · obtain ⟨_ | _, _ | _, _ | _⟩ := m <;> exact ⟨_, rfl, rfl, rfl⟩

end Sys2Proof.Machine

/-! Proof of the family 70_reset_and_hazards.md: a step with nothing issued, and the reset event (O8). -/

namespace Sys2Proof.Machine

/-- Settles O8: with no event a step has nothing to take; a reset event is taken and the block returns to its reset
state, the events behind it and the responses kept. -/
theorem stepWaitsAndResets : Obligations.StepWaitsAndResets := by
  refine ⟨fun s => step_idle, fun s es hp => ?_⟩
  rw [step_reset hp, returnToReset_eq, State.blockReset]

end Sys2Proof.Machine
